-- ==== Sys2Proof/Word.lean ====
section
/-! DEFINITION. The word types of the engine (spec/00_scope.md R11, R12): bytes on the wire and the 21-bit
delay length of the port list (spec/10_state.md R27). -/

namespace Sys2Proof

/-- `u8` of R12: an unsigned 8-bit value; `i8` is the same bits read as two's complement. -/
abbrev Byte := BitVec 8

/-- A length in microseconds as the delay port carries it: "21 bits hold 2 000 000" (R27). -/
abbrev Micros := BitVec 21

end Sys2Proof
end

