-- ==== Sys2Proof/Config.lean ====
section
/-! DEFINITION. What a build of the engine fixes (spec/00_scope.md R9), and the free values. The parameters are
one plain record which every state carries (log 3), so that a statement about every state is about every value
of every parameter. -/

namespace Sys2Proof

/-- The two build-time variants (R3, R9, decision D37). -/
inductive Variant where
  | polling
  | streaming
deriving DecidableEq, Repr

/-- `NEG128` of R237: what `y = -128` is reported as. -/
inductive Neg128 where
  /-- 127, the spec's value (decision D18). -/
  | saturate
  /-- -128, the other value R237 offers "to cover the original software". -/
  | wrap
deriving DecidableEq, Repr

/-- The parameters of R9. `START_DETECT`, `TICK_PERIOD` and the three priorities carry no datum (log 24). -/
structure Config where
  variant            : Variant
  tSetup             : Micros
  tPreRelease        : Micros
  tSettle            : Micros
  tGuard             : Micros
  tBrief             : Micros
  tResetHold         : Micros
  cmdReadData        : Byte
  cmdRamSelect       : Byte
  cmdRamSet          : Byte
  cmdSetStreamMode   : Byte
  cmdEnableReporting : Byte
  sensAddr           : Byte
  sensValue          : Byte
  neg128             : Neg128
deriving DecidableEq, Repr

/-- The defaults of R9. PRESUMED (log 4): the command bytes and `SENS_ADDR`, which R9 offers from general
knowledge. DESIGN CHOICE (log 3): `VARIANT`, `SENS_VALUE` and `T_RESET_HOLD`, to which R9 gives no default. -/
def Config.default : Config where
  variant            := .streaming
  tSetup             := 300
  tPreRelease        := 10
  tSettle            := 50
  tGuard             := 5
  tBrief             := 300
  tResetHold         := 2000000
  cmdReadData        := 0xEB
  cmdRamSelect       := 0xE2
  cmdRamSet          := 0x81
  cmdSetStreamMode   := 0xEA
  cmdEnableReporting := 0xF4
  sensAddr           := 0x4A
  sensValue          := 0x00
  neg128             := .saturate

/-- FREE VALUE (log 9): the `n`-th byte the spec leaves unspecified after `hw_reset` (R301, U2, U3). -/
opaque Config.freeByte : Nat → Byte

/-- FREE VALUE (log 9): the `n`-th bit the spec leaves unspecified after `hw_reset` (R301, U3). -/
opaque Config.freeBit : Nat → Bool

end Sys2Proof
end

