-- ==== Sys2Proof/Syntax.lean ====
section
/-! DEFINITION. The operations, events, wire transactions and records of the engine: one constructor of `Instr`
per row of spec/opcode_table.json (an *instruction* is an *operation* or a format, spec/00_scope.md R5). -/

namespace Sys2Proof

/-- A Sample (spec/10_state.md R40): "`state` (8-bit field ...), `x` (signed 8-bit ...), `y` (signed 8-bit ...)". -/
structure Sample where
  state : Byte
  x     : Byte
  y     : Byte
deriving DecidableEq, Repr

/-- One device-to-host byte frame as it stands on the wire (format D2H, spec/30_encoding.md R95): the eight data
cells as a byte, and the three cells the engine ignores, whose value the device chooses. -/
structure D2hFrame where
  start  : Bool
  byte   : Byte
  parity : Bool
  stop   : Bool
deriving DecidableEq, Repr

/-- The rows of spec/opcode_table.json. -/
inductive Instr where
  /-- `write_byte(value)`, R135. -/
  | writeByte (value : Byte)
  /-- `read_byte()`, R145. -/
  | readByte
  /-- `reset()`, R171: the pulse on the device's RESET line. -/
  | reset
  /-- `write_ram(location, value)`, R174. -/
  | writeRam (location value : Byte)
  /-- `set_sensitivity_factor(value)`, R177. -/
  | setSensitivityFactor (value : Byte)
  /-- `enable_streaming()`, R178. -/
  | enableStreaming
  /-- `query_sample()`, R183. -/
  | querySample
  /-- Code `0x0`: "no operation; ignored", R110. -/
  | nop
  /-- Codes `0x8` to `0xF`, R113. -/
  | reservedCmd (code : BitVec 4)
  /-- `EDGE`: one Edge Sampler step, R203. -/
  | edge
  /-- `FRAME_START`: resynchronisation, R210. -/
  | frameStart
  /-- `TICK_STREAM`: one dispatch period of the streaming variant, R232. -/
  | tickStream
  /-- `TICK_POLL`: one dispatch period of the polling variant, R240. -/
  | tickPoll
  /-- `hw_reset`, R300. -/
  | hwReset
  /-- Format H2D (R92): a byte frame from host to device. -/
  | h2d (value : Byte)
  /-- Format D2H (R95): a byte frame from device to host. -/
  | d2h (frame : D2hFrame)
  /-- Format MOV (R98): the three byte frames of one movement frame. -/
  | mov (state x y : D2hFrame)
  /-- Device command byte "read-data" (R100), one H2D frame. -/
  | cmdReadData
  /-- Device command byte "RAM-select" (R100), one H2D frame. -/
  | cmdRamSelect
  /-- Device command byte "RAM-set" (R100), one H2D frame. -/
  | cmdRamSet
  /-- Device command byte "set-stream-mode" (R100), one H2D frame. -/
  | cmdSetStreamMode
  /-- Device command byte "enable-reporting" (R100), one H2D frame. -/
  | cmdEnableReporting
  /-- A device acknowledgment byte (R101), one D2H frame of any value. -/
  | ack (value : Byte)
  /-- Sequence WRITE_RAM (R102), with the four acknowledgment bytes the device answers. -/
  | seqWriteRam (location value ack0 ack1 ack2 ack3 : Byte)
  /-- Sequence ENABLE_STREAMING (R103), with the two acknowledgment bytes the device answers. -/
  | seqEnableStreaming (ack0 ack1 : Byte)
  /-- Sequence QUERY (R104), with the acknowledgment byte and the three bytes the device answers. -/
  | seqQuery (ack0 state x y : Byte)
  /-- The whole pulse on the RESET line (R105). -/
  | resetPulse
  /-- The HID report record of a Sample, offered to the sink (R106, R107). -/
  | rpt (sample : Sample)
deriving DecidableEq, Repr

end Sys2Proof
end

