-- ==== Sys2Proof/WellFormed.lean ====
section
/-! DEFINITION. What the types of `Instr` and `Config` do not say: a reserved select code is one of `0x8` to
`0xF` (spec/30_encoding.md R113), and `T_RESET_HOLD` lies in its range (spec/00_scope.md R9). -/

namespace Sys2Proof

/-- A term of `Instr` that some row of the table stands for. -/
def Instr.wf : Instr → Bool
  | .reservedCmd code => decide (8 ≤ code.toNat)
  | _ => true

/-- "argument with 1 000 000 <= T_RESET_HOLD <= 2 000 000 microseconds" (R9, decision D24). -/
def Config.wf (c : Config) : Bool :=
  decide (1000000 ≤ c.tResetHold.toNat) && decide (c.tResetHold.toNat ≤ 2000000)

end Sys2Proof
end

