-- ==== Sys2Proof/Decode.lean ====
section
/-! DEFINITION. The wire formats of spec/30_encoding.md and the words at the engine's boundary: a total decoder
that rejects by name, and the encoder of the same tables. Bit 0 of a cell string is the earliest cell
(spec/00_scope.md R12, spec/20_memory.md R75).

A boundary word is a list of bytes. Its first byte is the select code of the command port (`0x0` to `0xF`,
R110), or the table's own match value for the command and acknowledgment byte rows (R100, R101), or a tag the
model gives a row to which the table gives no bits (DESIGN CHOICE, log 5). -/

namespace Sys2Proof

/-! ### Parity and cell layouts -/

/-- `popcount(v)` of R12. -/
def popcount (v : Byte) : Nat :=
  (v.getLsbD 0).toNat + (v.getLsbD 1).toNat + (v.getLsbD 2).toNat + (v.getLsbD 3).toNat +
  (v.getLsbD 4).toNat + (v.getLsbD 5).toNat + (v.getLsbD 6).toNat + (v.getLsbD 7).toNat

/-- `P(v) = 1 XOR (popcount(v) mod 2)`, odd parity over the eight data bits (R93). -/
def oddParity (v : Byte) : Bool :=
  xor true (popcount v % 2 == 1)

/-- Format H2D (R92): cells START, D0..D7, P, STOP, ACK, the earliest in bit 0. -/
def h2dCells (v : Byte) : BitVec 12 :=
  0#1 ++ 1#1 ++ BitVec.ofBool (oddParity v) ++ v ++ 0#1

/-- Format D2H (R95): cells START, D0..D7, P, STOP, the earliest in bit 0. -/
def d2hCells (f : D2hFrame) : BitVec 11 :=
  BitVec.ofBool f.stop ++ BitVec.ofBool f.parity ++ f.byte ++ BitVec.ofBool f.start

/-- Every one of the `2^11` cell strings is a D2H frame: "cells 1..8 read LSB-first" (R96). -/
def d2hOfCells (c : BitVec 11) : D2hFrame where
  start  := c.getLsbD 0
  byte   := c.extractLsb' 1 8
  parity := c.getLsbD 9
  stop   := c.getLsbD 10

/-- Format MOV (R98): the frames of `state`, `x` and `y`, in that order on the wire, 33 cells. -/
def movCells (state x y : D2hFrame) : BitVec 33 :=
  d2hCells y ++ d2hCells x ++ d2hCells state

/-- The frame a conforming device sends for a byte: START 0, odd parity, STOP 1 (R95, R332). -/
def conformingFrame (b : Byte) : D2hFrame where
  start  := false
  byte   := b
  parity := oddParity b
  stop   := true

/-! ### Decoding -/

/-- Why a boundary word is rejected. -/
inductive DecodeError where
  /-- The word ends before its operands do. -/
  | truncated
  /-- The first byte is no select code, match value or tag. -/
  | unknownRow (first : Byte)
  /-- The twelve cells are no H2D frame: START is not 0, P is not `P(v)`, STOP is not 1 or ACK is not 0 (R92). -/
  | badH2dFrame
  /-- A bit above the last cell of a wire format is not 0. -/
  | badPadding
deriving DecidableEq, Repr

/-- The operation a request on the command port names: the table of R110. -/
def commandOf (code : BitVec 4) (a b : Byte) : Instr :=
  if code = 0x0 then .nop
  else if code = 0x1 then .writeByte a
  else if code = 0x2 then .readByte
  else if code = 0x3 then .reset
  else if code = 0x4 then .writeRam a b
  else if code = 0x5 then .setSensitivityFactor a
  else if code = 0x6 then .enableStreaming
  else if code = 0x7 then .querySample
  else .reservedCmd code

/-- Twelve H2D cells in two bytes. -/
def decodeH2d (lo hi : Byte) : Except DecodeError Instr :=
  let cells := (hi ++ lo : BitVec 16)
  let v := cells.extractLsb' 1 8
  if hi.extractLsb' 4 4 ≠ 0 then .error .badPadding
  else if cells.extractLsb' 0 12 = h2dCells v then .ok (.h2d v)
  else .error .badH2dFrame

/-- Eleven D2H cells in two bytes. -/
def decodeD2h (lo hi : Byte) : Except DecodeError Instr :=
  if hi.extractLsb' 3 5 ≠ 0 then .error .badPadding
  else .ok (.d2h (d2hOfCells ((hi ++ lo : BitVec 16).extractLsb' 0 11)))

/-- Thirty-three MOV cells in five bytes. -/
def decodeMov (b0 b1 b2 b3 b4 : Byte) : Except DecodeError Instr :=
  let cells := (b4 ++ b3 ++ b2 ++ b1 ++ b0 : BitVec 40)
  if b4.extractLsb' 1 7 ≠ 0 then .error .badPadding
  else .ok (.mov (d2hOfCells (cells.extractLsb' 0 11)) (d2hOfCells (cells.extractLsb' 11 11))
    (d2hOfCells (cells.extractLsb' 22 11)))

/-- The rows outside the command port, by first byte (log 5). -/
def decodeTagged (tag : Byte) (rest : List Byte) : Except DecodeError (Instr × List Byte) :=
  if tag = 0x10 then .ok (.edge, rest)
  else if tag = 0x11 then .ok (.frameStart, rest)
  else if tag = 0x12 then .ok (.tickStream, rest)
  else if tag = 0x13 then .ok (.tickPoll, rest)
  else if tag = 0x14 then .ok (.hwReset, rest)
  else if tag = 0x20 then
    match rest with
    | lo :: hi :: r => (decodeH2d lo hi).map (·, r)
    | _ => .error .truncated
  else if tag = 0x21 then
    match rest with
    | lo :: hi :: r => (decodeD2h lo hi).map (·, r)
    | _ => .error .truncated
  else if tag = 0x22 then
    match rest with
    | b0 :: b1 :: b2 :: b3 :: b4 :: r => (decodeMov b0 b1 b2 b3 b4).map (·, r)
    | _ => .error .truncated
  else if tag = 0x30 then
    match rest with
    | l :: v :: a0 :: a1 :: a2 :: a3 :: r => .ok (.seqWriteRam l v a0 a1 a2 a3, r)
    | _ => .error .truncated
  else if tag = 0x31 then
    match rest with
    | a0 :: a1 :: r => .ok (.seqEnableStreaming a0 a1, r)
    | _ => .error .truncated
  else if tag = 0x32 then
    match rest with
    | a0 :: st :: x :: y :: r => .ok (.seqQuery a0 st x y, r)
    | _ => .error .truncated
  else if tag = 0x40 then .ok (.resetPulse, rest)
  else if tag = 0x41 then
    match rest with
    | st :: x :: y :: r => .ok (.rpt ⟨st, x, y⟩, r)
    | _ => .error .truncated
  else if tag = 0xEB then .ok (.cmdReadData, rest)
  else if tag = 0xE2 then .ok (.cmdRamSelect, rest)
  else if tag = 0x81 then .ok (.cmdRamSet, rest)
  else if tag = 0xEA then .ok (.cmdSetStreamMode, rest)
  else if tag = 0xF4 then .ok (.cmdEnableReporting, rest)
  else if tag = 0xFA then
    match rest with
    | b :: r => .ok (.ack b, r)
    | _ => .error .truncated
  else .error (.unknownRow tag)

/-- The instruction a boundary word holds, and the bytes after it. A first byte below `0x10` is a request on the
command port, `cmd_op`, `cmd_a`, `cmd_b` (R27, R110). -/
def decode : List Byte → Except DecodeError (Instr × List Byte)
  | [] => .error .truncated
  | op :: rest =>
    if op.toNat < 16 then
      match rest with
      | a :: b :: r => .ok (commandOf (op.setWidth 4) a b, r)
      | _ => .error .truncated
    else decodeTagged op rest

/-! ### Encoding -/

/-- Byte `k` of a cell string. -/
def cellByte {n : Nat} (cells : BitVec n) (k : Nat) : Byte :=
  cells.extractLsb' (8 * k) 8

/-- The word of an instruction. Operand bytes R110 calls ignored are written as 0. -/
def encode : Instr → List Byte
  | .nop => [0x00, 0, 0]
  | .writeByte v => [0x01, v, 0]
  | .readByte => [0x02, 0, 0]
  | .reset => [0x03, 0, 0]
  | .writeRam l v => [0x04, l, v]
  | .setSensitivityFactor v => [0x05, v, 0]
  | .enableStreaming => [0x06, 0, 0]
  | .querySample => [0x07, 0, 0]
  | .reservedCmd code => [code.setWidth 8, 0, 0]
  | .edge => [0x10]
  | .frameStart => [0x11]
  | .tickStream => [0x12]
  | .tickPoll => [0x13]
  | .hwReset => [0x14]
  | .h2d v => [0x20, cellByte (h2dCells v) 0, cellByte (h2dCells v) 1]
  | .d2h f => [0x21, cellByte (d2hCells f) 0, cellByte (d2hCells f) 1]
  | .mov s x y => [0x22, cellByte (movCells s x y) 0, cellByte (movCells s x y) 1,
      cellByte (movCells s x y) 2, cellByte (movCells s x y) 3, cellByte (movCells s x y) 4]
  | .seqWriteRam l v a0 a1 a2 a3 => [0x30, l, v, a0, a1, a2, a3]
  | .seqEnableStreaming a0 a1 => [0x31, a0, a1]
  | .seqQuery a0 st x y => [0x32, a0, st, x, y]
  | .resetPulse => [0x40]
  | .rpt p => [0x41, p.state, p.x, p.y]
  | .cmdReadData => [0xEB]
  | .cmdRamSelect => [0xE2]
  | .cmdRamSet => [0x81]
  | .cmdSetStreamMode => [0xEA]
  | .cmdEnableReporting => [0xF4]
  | .ack b => [0xFA, b]

/-! ### The table's words -/

/-- The longest word, in bytes (WRITE_RAM). -/
def maxWordBytes : Nat := 7

/-- The `n` bytes of a number, the least significant first. -/
def bytesOfNat : Nat → Nat → List Byte
  | 0, _ => []
  | n + 1, w => BitVec.ofNat 8 w :: bytesOfNat n (w / 256)

/-- The word whose low `nbits` bits are `w`, numbered as spec/opcode_table.json numbers them, every bit above
them 0, up to the longest word. -/
def tableWordBytes (nbits w : Nat) : List Byte :=
  bytesOfNat maxWordBytes (w % 2 ^ nbits)

/-- The instruction the decoder reads from a word of the opcode table. -/
def decodeTableWord (nbits w : Nat) : Option Instr :=
  match decode (tableWordBytes nbits w) with
  | .ok (i, _) => some i
  | .error _ => none

end Sys2Proof
end

