-- ==== Sys2Proof/Machine/State.lean ====
section
/-! DEFINITION. The state of the engine (spec/10_state.md R20 to R51), the values its ports hold (R27), what the
outside drives (R24, R279), and what happens at the boundary next (spec/60_exceptions.md R268, R270). Plain data
only. -/

namespace Sys2Proof.Machine

/-- The two bidirectional Lines (R22). -/
inductive Line where
  | clock
  | data
deriving DecidableEq, Repr

/-- One party's drive of a Line (R22, R23): driven-low, or released. Nobody can drive a Line high. -/
inductive Drive where
  | low
  | rel
deriving DecidableEq, Repr

/-- `mode` (R30). -/
inductive Mode where
  | polling
  | streaming
deriving DecidableEq, Repr

/-- `seq_op` (R33): the operation in progress. DESIGN CHOICE (log 34): during a `TICK_POLL`, which R33 does not name, it
holds a value of its own, `tickPoll`. -/
inductive SeqOp where
  | idle
  | writeByte
  | readByte
  | reset
  | writeRam
  | setSensitivityFactor
  | enableStreaming
  | querySample
  | tickPoll
deriving DecidableEq, Repr

/-- `seq_pc` (R33): the micro-step labels of `write_byte` (spec/40_protocol_engine.md R135), `read_byte` (R145),
`reset` (spec/41_device_controller.md R171), ES_FINAL (R180) and the tail of `TICK_POLL`
(spec/43_report_dispatch.md R240, where `p3` is P3 with P4 and P5, log 14). `idle` is "none". -/
inductive Label where
  | idle
  | wr0 | wr1 | wr2 | wr3 | wr4 | wr5 | wr6 | wr7 | wr8
  | wr9a | wr9b | wr9c | wr9d | wr10a | wr10b | wr10c
  | wr11 | wr12 | wr13 | wr14 | wr15
  | rd0 | rd1 | rd2 | rd3 | rd4 | rd5 | rd6a | rd6b | rd6c
  | rd7a | rd7b | rd8a | rd8b | rd9 | rd10
  | rs0 | rs1 | rs2
  | esFinal
  | p3 | p6
deriving DecidableEq, Repr

/-- `disp_state` (R49). -/
inductive DispState where
  | idle
  | dispatching
deriving DecidableEq, Repr

/-- The sink's answer, port `rpt_result` (R27, R279). -/
inductive SinkAnswer where
  | accepted
  | busy
  | invalid
deriving DecidableEq, Repr

/-- `acc[0..2]` (R47): the three bytes under construction. -/
structure Acc where
  b0 : Byte
  b1 : Byte
  b2 : Byte
deriving DecidableEq, Repr

/-- The outgoing HID report, five 8-bit fields (R50). -/
structure Report where
  x       : Byte
  y       : Byte
  buttons : Byte
  wheel   : Byte
  pan     : Byte
deriving DecidableEq, Repr

/-- One thing that happens at the engine's boundary, or one turn of the sequencer (log 1). -/
inductive Input where
  /-- A word presented to the engine: a request on the command port, an event, or a wire transaction. -/
  | word (bytes : List Byte)
  /-- The periodic tick (R231): `TICK_STREAM` or `TICK_POLL`, by `VARIANT`. -/
  | tick
  /-- The device now drives CLOCK and DATA so (R24); nothing constrains what it does. -/
  | device (clock data : Drive)
  /-- The sink would now answer so (R279). -/
  | sink (answer : SinkAnswer)
  /-- The delay source reports that the requested delay is over (R278). -/
  | delayDone
  /-- The sequencer takes its next micro-step, if it is enabled (R130, R270). -/
  | seqTurn
deriving DecidableEq, Repr

/-- The machine's state. -/
structure State where
  /-- The parameters of this build (R9, log 3): no step changes them. -/
  cfg           : Config
  /-- `host_drive[CLOCK]`, R23. -/
  hostClock     : Drive
  /-- `host_drive[DATA]`, R23. -/
  hostData      : Drive
  /-- `reset_out`, R26. -/
  resetOut      : Bool
  /-- `mode`, R30. -/
  mode          : Mode
  /-- `busy`, R32; port `cmd_busy`. -/
  busy          : Bool
  /-- `seq_op`, R33. -/
  seqOp         : SeqOp
  /-- `seq_pc`, R33. -/
  seqPc         : Label
  /-- `bit_cnt`, R33. -/
  bitCnt        : Fin 8
  /-- `cmd_idx`, R33. -/
  cmdIdx        : Fin 8
  /-- `tx`, R35. -/
  tx            : Byte
  /-- `par`, R36. -/
  par           : Bool
  /-- `rx`, R37; port `rsp_byte`. -/
  rx            : Byte
  /-- `arg_loc`, R38. -/
  argLoc        : Byte
  /-- `arg_val`, R38. -/
  argVal        : Byte
  /-- `q`, R39; port `rsp_sample`. -/
  q             : Sample
  /-- `edge_pending`, R44. -/
  edgePending   : Bool
  /-- `byte_idx`, R45. -/
  byteIdx       : Fin 3
  /-- `bit_idx`, R46. -/
  bitIdx        : Fin 11
  /-- `acc[0..2]`, R47. -/
  acc           : Acc
  /-- `sample`, the shared sample cache's slot, R41. -/
  sample        : Sample
  /-- `data_available`, the shared sample cache's flag, R42. -/
  dataAvailable : Bool
  /-- `disp_state`, R49. -/
  dispState     : DispState
  /-- `report`, R50; ports `rpt_x` to `rpt_pan`. -/
  report        : Report
  /-- `aborted`, R51. -/
  aborted       : Bool
  /-- Port `rsp_valid`, R27: the completion strobe (log 12). -/
  rspValid      : Bool
  /-- Port `rpt_valid`, R27: the submission strobe (log 12). -/
  rptValid      : Bool
  /-- Port `dly_req`, R27 (log 11). -/
  dlyReq        : Bool
  /-- Port `dly_len`, R27 (log 11). -/
  dlyLen        : Micros
  /-- Port `dly_done`, R27 (log 11). -/
  dlyDone       : Bool
  /-- Port `rpt_result`, R27: what the sink would answer (environment, log 19). -/
  rptResult     : SinkAnswer
  /-- `dev_drive[CLOCK]`, R24 (environment, log 19). -/
  devClock      : Drive
  /-- `dev_drive[DATA]`, R24 (environment, log 19). -/
  devData       : Drive
  /-- What a conforming device latched in the last host-to-device frame (R331; environment, log 18). -/
  devFrame      : List Bool
  /-- What happens next, oldest first (environment, log 1). -/
  inputs        : List Input
  /-- The model's own counter of free values used (log 9). -/
  freeCtr       : Nat
deriving DecidableEq, Repr

/-- Why a step would stop. No step of this machine does: the engine's one fault, Abort, is described by the spec
(spec/60_exceptions.md R266) and taken as a next state, and a hang is a state in which the sequencer has no
enabled step (R262). Nobody raises a fault (log 8). -/
inductive Fault
deriving DecidableEq, Repr

/-- Why a step has no meaning. -/
inductive Refusal where
  /-- An instruction without a meaning yet, raised by an arm of `exec` only. Safe: nothing is claimed of it. -/
  | notModelled (mnemonic : String)
  /-- A boundary word that encodes no row of the table, raised by `step` when the decoder rejects the word. Safe:
  no such word exists on the engine's ports, so the machine stops where the hardware has no event (log 5). -/
  | undecodable (why : DecodeError)
deriving DecidableEq, Repr

/-- The state after `hw_reset` of a build with parameters `c`: R301 for every element it gives a value. DESIGN
CHOICE (log 10): the elements R301 leaves unspecified are 0. DESIGN CHOICE (log 19): the device drives nothing
and the sink would accept. -/
def State.resetOf (c : Config) : State where
  cfg           := c
  hostClock     := .rel
  hostData      := .rel
  resetOut      := false
  mode          := .polling
  busy          := false
  seqOp         := .idle
  seqPc         := .idle
  bitCnt        := 0
  cmdIdx        := 0
  tx            := 0
  par           := false
  rx            := 0
  argLoc        := 0
  argVal        := 0
  q             := ⟨0, 0, 0⟩
  edgePending   := false
  byteIdx       := 0
  bitIdx        := 0
  acc           := ⟨0, 0, 0⟩
  sample        := ⟨0, 0, 0⟩
  dataAvailable := false
  dispState     := .idle
  report        := ⟨0, 0, 0, 0, 0⟩
  aborted       := false
  rspValid      := false
  rptValid      := false
  dlyReq        := false
  dlyLen        := 0
  dlyDone       := false
  rptResult     := .accepted
  devClock      := .rel
  devData       := .rel
  devFrame      := []
  inputs        := []
  freeCtr       := 0

/-- The machine right after reset, with the default parameters (log 3, log 4) and nothing placed. -/
def State.reset : State := State.resetOf Config.default

end Sys2Proof.Machine
end

