-- ==== Sys2Proof/Machine/Flags.lean ====
section
/-! DEFINITION. The engine's only arithmetic (spec/30_encoding.md R93, spec/43_report_dispatch.md R236 to R238):
the running parity and the report mapping. -/

namespace Sys2Proof.Machine

/-- `par XOR tx[bit_cnt]`, micro-step WR9d (spec/40_protocol_engine.md R135, spec/10_state.md R36). -/
def parityStep (par b : Bool) : Bool :=
  xor par b

/-- The parity of the first `n` data bits, from the `par <- 1` of WR0 (R36). -/
def parityAfter (v : Byte) : Nat → Bool
  | 0 => true
  | n + 1 => parityStep (parityAfter v n) (v.getLsbD n)

/-- `y'` of R236 on integers: `-y`, but `NEG128` at the one value whose negation leaves the signed 8-bit range
(R237). -/
def negY (n : Neg128) (y : Int) : Int :=
  if y = -128 then
    match n with
    | .saturate => 127
    | .wrap => -128
  else -y

/-- `Format(s)` of R236, as the ports carry it: `x` unchanged, `y` negated, the lowest three bits of `state`,
wheel and pan 0. -/
def formatReport (c : Config) (p : Sample) : Report where
  x       := p.x
  y       := BitVec.ofInt 8 (negY c.neg128 p.y.toInt)
  buttons := p.state % 8
  wheel   := 0
  pan     := 0

end Sys2Proof.Machine
end

