-- ==== Sys2Proof/Machine/Operands.lean ====
section
/-! DEFINITION. Operand forms: bits of a byte in wire order, the byte of `acc` an index names, the operand each
byte-level call of a composite operation transmits, and where each received byte goes. -/

namespace Sys2Proof.Machine

/-- `v[i] <- b`. "Bit 0 of a byte is its least-significant bit" (spec/00_scope.md R12). -/
def setBit (v : Byte) (i : Nat) (b : Bool) : Byte :=
  if b then v ||| (1#8 <<< i) else v &&& ~~~(1#8 <<< i)

/-- The drive that puts a bit on a released or driven-low line: "a 1 is never driven, it is the pull-up's"
(spec/40_protocol_engine.md R139). -/
def driveOfBit (b : Bool) : Drive :=
  if b then .rel else .low

/-- `acc[i]` (spec/10_state.md R47). -/
def accByte (a : Acc) (i : Fin 3) : Byte :=
  match i with
  | 0 => a.b0
  | 1 => a.b1
  | 2 => a.b2

/-- `acc[i] <- v`. -/
def setAccByte (a : Acc) (i : Fin 3) (v : Byte) : Acc :=
  match i with
  | 0 => { a with b0 := v }
  | 1 => { a with b1 := v }
  | 2 => { a with b2 := v }

/-- The triple `(acc[0], acc[1], acc[2])` as a Sample: `byte_idx` is "0 for `state`, 1 for `x`, 2 for `y`"
(spec/10_state.md R45). -/
def accSample (a : Acc) : Sample :=
  ⟨a.b0, a.b1, a.b2⟩

/-- `{state, x, y}` with `state` most significant (spec/10_state.md R40), the form of port `rsp_sample`. -/
def packSample (p : Sample) : BitVec 24 :=
  p.state ++ p.x ++ p.y

/-- The byte the `write_byte` at the sequencer's position transmits: the operand of the call, or the command byte
or operand byte its caller names (spec/41_device_controller.md R174, R177, R178, R183). -/
def callByte (s : State) : Byte :=
  match s.seqOp with
  | .writeRam | .setSensitivityFactor =>
    if s.cmdIdx = 0 then s.cfg.cmdRamSelect
    else if s.cmdIdx = 2 then s.cfg.cmdRamSet
    else if s.cmdIdx = 4 then s.argLoc
    else s.argVal
  | .enableStreaming => if s.cmdIdx = 0 then s.cfg.cmdSetStreamMode else s.cfg.cmdEnableReporting
  | .querySample | .tickPoll => s.cfg.cmdReadData
  | .idle | .writeByte | .readByte | .reset => s.tx

/-- What the caller does with the byte a `read_byte` returned: `query_sample` keeps the second, third and fourth
(spec/41_device_controller.md R183); every other caller discards it (R170). -/
def keepReadByte (s : State) : State :=
  match s.seqOp with
  | .querySample | .tickPoll =>
    if s.cmdIdx = 2 then { s with q := { s.q with state := s.rx } }
    else if s.cmdIdx = 3 then { s with q := { s.q with x := s.rx } }
    else if s.cmdIdx = 4 then { s with q := { s.q with y := s.rx } }
    else s
  | .idle | .writeByte | .readByte | .reset | .writeRam | .setSensitivityFactor | .enableStreaming => s

/-- The micro-step at which call `idx` of an operation begins: `write_byte` and `read_byte` alternate in the
controller's sequences (R174, R178), `query_sample` writes once and reads four times (R183), and the step after
the fourth call of `enable_streaming` is ES_FINAL (R180). -/
def entryLabel (op : SeqOp) (idx : Fin 8) : Label :=
  match op with
  | .idle => .idle
  | .writeByte => .wr0
  | .readByte => .rd0
  | .reset => .rs0
  | .writeRam | .setSensitivityFactor => if idx.val % 2 = 0 then .wr0 else .rd0
  | .enableStreaming => if idx.val < 4 then (if idx.val % 2 = 0 then .wr0 else .rd0) else .esFinal
  | .querySample | .tickPoll => if idx = 0 then .wr0 else .rd0

/-- The last value of `cmd_idx` an operation reaches: "for `write_ram`: 0..7, eight calls" (spec/10_state.md R33),
`cmd_idx 4` for `enable_streaming` and `query_sample` (R178, R183). -/
def lastIdx (op : SeqOp) : Fin 8 :=
  match op with
  | .idle | .writeByte | .readByte | .reset => 0
  | .writeRam | .setSensitivityFactor => 7
  | .enableStreaming | .querySample | .tickPoll => 4

/-- The length each `Delay` micro-step asks for (spec/70_reset_and_hazards.md R341). -/
def delayLength (c : Config) (pc : Label) : Micros :=
  match pc with
  | .wr2 => c.tBrief
  | .wr4 => c.tSetup
  | .wr6 => c.tPreRelease
  | .wr12 => c.tSettle
  | .rd2 => c.tSettle
  | .rd4 => c.tGuard
  | .rs1 => c.tResetHold
  | _ => 0

/-- The kinds of micro-step (R130). -/
inductive StepKind where
  /-- A line action, a sample or a register update: "complete at once". -/
  | action
  /-- A `Delay`. -/
  | delay
  /-- `WaitUntil(Level(CLOCK) = b)`. -/
  | waitClock (b : Bool)
  /-- `WaitUntil(Level(CLOCK) = b and Level(DATA) = b)`. -/
  | waitBoth (b : Bool)
  /-- No micro-step: the sequencer is idle. -/
  | none
deriving DecidableEq, Repr

/-- The kind of each label: the programs of R135, R145 and R171. -/
def stepKind (pc : Label) : StepKind :=
  match pc with
  | .idle => .none
  | .wr2 | .wr4 | .wr6 | .wr12 | .rd2 | .rd4 | .rs1 => .delay
  | .wr8 | .wr9c | .wr10c | .rd3 | .rd6a | .rd7a | .rd8a => .waitClock false
  | .wr9b | .wr10b | .rd5 | .rd6c | .rd7b | .rd8b => .waitClock true
  | .wr13 => .waitBoth false
  | .wr14 => .waitBoth true
  | _ => .action

end Sys2Proof.Machine
end

