-- ==== Sys2Proof/Machine/Ops.lean ====
section
/-! DEFINITION. The named operations every meaning is made of: the Lines, the ports, the delay source, the shared
sample cache, the HID sink, acceptance and completion of called operations, Abort, and hardware reset. -/

namespace Sys2Proof.Machine

/-! ### The Lines (spec/10_state.md R22 to R25, spec/00_scope.md R14) -/

/-- `host_drive[L]`. -/
def hostDrive (l : Line) (s : State) : Drive :=
  match l with
  | .clock => s.hostClock
  | .data => s.hostData

/-- `dev_drive[L]`. -/
def devDrive (l : Line) (s : State) : Drive :=
  match l with
  | .clock => s.devClock
  | .data => s.devData

/-- `Level(L)`: 0 if either party drives the line low, else 1 (R24, decision D32). -/
def level (l : Line) (s : State) : Bool :=
  match hostDrive l s, devDrive l s with
  | .rel, .rel => true
  | _, _ => false

/-- The edge detector (spec/42_edge_sampler.md R201): in STREAMING, and not aborted, a change of `Level(CLOCK)`
from 1 to 0 sets `edge_pending`; one that finds it set changes nothing. -/
def detectEdge (before after : State) : State :=
  if before.mode == .streaming && !before.aborted && level .clock before && !level .clock after then
    { after with edgePending := true }
  else after

/-- Set the host's drive of a line. -/
def setHost (l : Line) (d : Drive) (s : State) : State :=
  detectEdge s <|
    match l with
    | .clock => { s with hostClock := d }
    | .data => { s with hostData := d }

/-- `Release(L)`. -/
def release (l : Line) (s : State) : State := setHost l .rel s

/-- `DriveLow(L)`. -/
def driveLow (l : Line) (s : State) : State := setHost l .low s

/-- `SetData(b)`. -/
def setData (b : Bool) (s : State) : State := setHost .data (driveOfBit b) s

/-- The device changes its drives (R24): nothing constrains when or how. -/
def setDevice (c d : Drive) (s : State) : State :=
  detectEdge s { s with devClock := c, devData := d }

/-- Both Lines released by the host. -/
def hostReleased (s : State) : Bool :=
  s.hostClock == .rel && s.hostData == .rel

/-! ### Ports that are views of the state (R27) -/

/-- Port `clock_in`. -/
def clockIn (s : State) : Bool := level .clock s

/-- Port `data_in`. -/
def dataIn (s : State) : Bool := level .data s

/-- Port `clock_oe`: "1 when `host_drive[CLOCK] = LOW`". -/
def clockOe (s : State) : Bool := s.hostClock == .low

/-- Port `data_oe`: "1 when `host_drive[DATA] = LOW`". -/
def dataOe (s : State) : Bool := s.hostData == .low

/-- Port `cmd_busy`. -/
def cmdBusy (s : State) : Bool := s.busy

/-- Port `rsp_byte`. -/
def rspByte (s : State) : Byte := s.rx

/-- Port `rsp_sample`. -/
def rspSample (s : State) : BitVec 24 := packSample s.q

/-- The strobes `rsp_valid` and `rpt_valid` last until the next step (log 12). -/
def clearStrobes (s : State) : State :=
  { s with rspValid := false, rptValid := false }

/-! ### The delay source (spec/60_exceptions.md R278, log 11) -/

/-- The sequencer asks for a delay. -/
def requestDelay (n : Micros) (s : State) : State :=
  { s with dlyReq := true, dlyLen := n, dlyDone := false }

/-- The sequencer takes the completed delay. -/
def endDelay (s : State) : State :=
  { s with dlyReq := false, dlyDone := false }

/-- The delay source reports completion; without a request there is nothing to complete. -/
def delayDone (s : State) : State :=
  if s.dlyReq then { s with dlyDone := true } else s

/-! ### The shared sample cache (spec/20_memory.md R60 to R66) -/

/-- `CacheRead()` (R62): flag and Sample of one instant. -/
def cacheRead (s : State) : Bool × Sample :=
  (s.dataAvailable, s.sample)

/-- `CachePublish(p)` (R63). -/
def cachePublish (p : Sample) (s : State) : State :=
  { s with sample := p, dataAvailable := true }

/-- `CacheConsume()` (R64): read, and clear the flag if it was set. -/
def cacheConsume (s : State) : (Bool × Sample) × State :=
  (cacheRead s, if s.dataAvailable then { s with dataAvailable := false } else s)

/-- In the streaming variant `disp_state` is Dispatching only inside the critical section T1 to T8
(spec/43_report_dispatch.md R232, spec/20_memory.md R68). -/
def dispatcherHoldsCache (s : State) : Bool :=
  s.cfg.variant == .streaming && s.dispState == .dispatching

/-! ### Abort, the engine's one exception (spec/60_exceptions.md R266) -/

/-- `raise Abort(report)`: `aborted <- 1`. The operation in progress ends where it stands, nothing else is
recorded, and every agent's enabling test reads `aborted`; only `hw_reset` clears it. -/
def raiseAbort (s : State) : State :=
  { s with aborted := true }

/-! ### The HID report sink (spec/60_exceptions.md R279) -/

/-- `report <- Format(p)`. -/
def setReport (p : Sample) (s : State) : State :=
  { s with report := formatReport s.cfg p }

/-- `SinkSubmit(report)`: the report ports are presented and the sink's answer comes at once. -/
def sinkSubmit (s : State) : SinkAnswer × State :=
  (s.rptResult, { s with rptValid := true })

/-- A submission and what follows from its answer: INVALID raises Abort, BUSY drops the report, ACCEPTED
delivers it (spec/43_report_dispatch.md R232 T6 and T7, R233, R240 P4 and P5). -/
def offerReport (s : State) : State :=
  match sinkSubmit s with
  | (.invalid, t) => raiseAbort t
  | (.busy, t) => t
  | (.accepted, t) => t

/-! ### Acceptance and completion (spec/30_encoding.md R112, R114) -/

/-- Whether a called operation is accepted now: not busy, not aborted, POLLING, and legal in `VARIANT`. -/
def callLegal (op : SeqOp) (s : State) : Bool :=
  !s.busy && !s.aborted && s.mode == .polling &&
    match op with
    | .querySample => s.cfg.variant == .polling
    | .enableStreaming => s.cfg.variant == .streaming
    | _ => true

/-- Start a sequence at its first call. -/
def beginSequence (op : SeqOp) (s : State) : State :=
  { s with busy := true, seqOp := op, cmdIdx := 0, seqPc := entryLabel op 0 }

/-- A called operation completes: "completion sets `busy <- 0` and raises `rsp_valid`" (R112). The position
returns to IDLE, none; `cmd_idx` and `bit_cnt` stay (log 13). -/
def completeCall (s : State) : State :=
  { s with busy := false, seqOp := .idle, seqPc := .idle, rspValid := true }

/-- A call with its operands, accepted or refused: a refused request "changes no state and produces no response"
(R264, log 7). -/
def requestCall (op : SeqOp) (latched s : State) : State :=
  if callLegal op s then beginSequence op latched else s

/-- `write_byte(value)`: "the single operand is latched into `tx`" (spec/10_state.md R38). -/
def callWriteByte (v : Byte) (s : State) : State :=
  requestCall .writeByte { s with tx := v } s

/-- `write_ram(location, value)` (R174). -/
def callWriteRam (loc val : Byte) (s : State) : State :=
  requestCall .writeRam { s with argLoc := loc, argVal := val } s

/-- `set_sensitivity_factor(value)`: `arg_loc <- SENS_ADDR; arg_val <- value` (R177). -/
def callSetSensitivity (val : Byte) (s : State) : State :=
  requestCall .setSensitivityFactor { s with argLoc := s.cfg.sensAddr, argVal := val } s

/-- A call without operands. -/
def callPlain (op : SeqOp) (s : State) : State :=
  requestCall op s s

/-! ### Hardware reset (spec/70_reset_and_hazards.md R300, R301, R304) -/

/-- `hw_reset`: every element R301 gives a value takes it; those it leaves unspecified take free values (log 9).
Parameters, the device, the sink's answer and what happens next are not the engine's and stay. -/
def hardwareReset (s : State) : State :=
  { State.resetOf s.cfg with
    tx        := Config.freeByte s.freeCtr
    par       := Config.freeBit (s.freeCtr + 1)
    rx        := Config.freeByte (s.freeCtr + 2)
    argLoc    := Config.freeByte (s.freeCtr + 3)
    argVal    := Config.freeByte (s.freeCtr + 4)
    q         := ⟨Config.freeByte (s.freeCtr + 5), Config.freeByte (s.freeCtr + 6), Config.freeByte (s.freeCtr + 7)⟩
    sample    := ⟨Config.freeByte (s.freeCtr + 8), Config.freeByte (s.freeCtr + 9), Config.freeByte (s.freeCtr + 10)⟩
    report    := ⟨Config.freeByte (s.freeCtr + 11), Config.freeByte (s.freeCtr + 12), Config.freeByte (s.freeCtr + 13),
                  Config.freeByte (s.freeCtr + 14), Config.freeByte (s.freeCtr + 15)⟩
    rptResult := s.rptResult
    devClock  := s.devClock
    devData   := s.devData
    devFrame  := s.devFrame
    inputs    := s.inputs
    freeCtr   := s.freeCtr + 16 }

end Sys2Proof.Machine
end

