-- ==== Sys2Proof/Machine/Sampler.lean ====
section
/-! DEFINITION. The Edge Sampler (spec/42_edge_sampler.md R200 to R214). One `EDGE` is one bounded step: no wait,
no delay, no line action (R202). -/

namespace Sys2Proof.Machine

/-- `byte_idx <- 0 ; bit_idx <- 0 ; acc[0..2] <- 0`: the initial frame state (R206, R210). -/
def clearFrame (s : State) : State :=
  { s with byteIdx := 0, bitIdx := 0, acc := ⟨0, 0, 0⟩ }

/-- When `EDGE` is enabled: an edge is pending, the sampler is active, the engine has not aborted, and the
dispatcher holds no critical section on the cache (R201, R203). -/
def edgeEnabled (s : State) : Bool :=
  s.mode == .streaming && !s.aborted && s.edgePending && !dispatcherHoldsCache s

/-- E3: a data cell goes to bit `bit_idx - 1` of `acc[byte_idx]`; the START, P and STOP cells are discarded
(R204). -/
def insertCell (d : Bool) (s : State) : State :=
  if 1 ≤ s.bitIdx.val ∧ s.bitIdx.val ≤ 8 then
    { s with acc := setAccByte s.acc s.byteIdx (setBit (accByte s.acc s.byteIdx) (s.bitIdx.val - 1) d) }
  else s

/-- E4: the next cell, the next byte, or the end of the frame, which publishes (R205, R206). -/
def advanceCell (s : State) : State :=
  if s.bitIdx.val < 10 then { s with bitIdx := s.bitIdx + 1 }
  else if s.byteIdx.val < 2 then { s with bitIdx := 0, byteIdx := s.byteIdx + 1 }
  else clearFrame (cachePublish (accSample s.acc) s)

/-- E1 to E4 of R203: DATA is read before `edge_pending` is cleared (R72, R315). DEDUCED (log 37): "One `EDGE` is one
step" (R202), so a falling edge between E1 and E2 (R208 d) has no run of its own. -/
def edgeAction (s : State) : State :=
  let d := level .data s
  advanceCell (insertCell d { s with edgePending := false })

/-- `EDGE` where it is enabled; elsewhere there is no such step. -/
def edgeStep (s : State) : State :=
  if edgeEnabled s then edgeAction s else s

/-- `FRAME_START` (R210): in STREAMING, and not aborted, the partial frame is discarded. -/
def frameStartStep (s : State) : State :=
  if s.mode == .streaming && !s.aborted then clearFrame s else s

end Sys2Proof.Machine
end

