-- ==== Sys2Proof/Machine/Sequencer.lean ====
section
/-! DEFINITION. The sequencer: the micro-programs of `write_byte` (spec/40_protocol_engine.md R135), `read_byte`
(R145), `reset` (spec/41_device_controller.md R171), ES_FINAL (R180) and the tail of `TICK_POLL`
(spec/43_report_dispatch.md R240), and the calls that join them (R170). -/

namespace Sys2Proof.Machine

/-- The position moves to a label. -/
def goto (pc : Label) (s : State) : State :=
  { s with seqPc := pc }

/-- A `Delay` micro-step: the first turn asks for the delay, the turn after `dly_done` moves on (log 11). -/
def delayStep (next : Label) (s : State) : State :=
  if s.dlyReq then goto next (endDelay s) else requestDelay (delayLength s.cfg s.seqPc) s

/-- A byte operation is over: the caller's next call, or the end of the caller. `TICK_POLL` goes on to P3; every
other operation completes (R170). -/
def returnToCaller (s : State) : State :=
  if s.cmdIdx = lastIdx s.seqOp then
    match s.seqOp with
    | .tickPoll => goto .p3 s
    | _ => completeCall s
  else { s with cmdIdx := s.cmdIdx + 1, seqPc := entryLabel s.seqOp (s.cmdIdx + 1) }

/-- The per-bit loop of R135 and R145: the next bit, or on past the eighth. -/
def nextBit (again done : Label) (s : State) : State :=
  if s.bitCnt.val < 7 then goto again { s with bitCnt := s.bitCnt + 1 } else goto done s

/-- ES_FINAL, "one indivisible step" (R180); then `busy <- 0` and the response. -/
def esFinalStep (s : State) : State :=
  let t := release .data (release .clock s)
  completeCall (clearFrame { t with mode := .streaming, edgePending := false })

/-- One micro-step, by label. -/
def microStep (s : State) : State :=
  match s.seqPc with
  | .idle => s
  | .wr0 => goto .wr1 { s with tx := callByte s, par := true, bitCnt := 0 }
  | .wr1 => goto .wr2 (release .data (release .clock s))
  | .wr2 => delayStep .wr3 s
  | .wr3 => goto .wr4 (driveLow .clock s)
  | .wr4 => delayStep .wr5 s
  | .wr5 => goto .wr6 (driveLow .data s)
  | .wr6 => delayStep .wr7 s
  | .wr7 => goto .wr8 (release .clock s)
  | .wr8 => goto .wr9a s
  | .wr9a => goto .wr9b (setData (s.tx.getLsbD s.bitCnt.val) s)
  | .wr9b => goto .wr9c s
  | .wr9c => goto .wr9d s
  | .wr9d => nextBit .wr9a .wr10a { s with par := parityStep s.par (s.tx.getLsbD s.bitCnt.val) }
  | .wr10a => goto .wr10b (setData s.par s)
  | .wr10b => goto .wr10c s
  | .wr10c => goto .wr11 s
  | .wr11 => goto .wr12 (release .data s)
  | .wr12 => delayStep .wr13 s
  | .wr13 => goto .wr14 s
  | .wr14 => goto .wr15 s
  | .wr15 => returnToCaller (driveLow .clock s)
  | .rd0 => goto .rd1 { s with rx := 0, bitCnt := 0 }
  | .rd1 => goto .rd2 (release .data (release .clock s))
  | .rd2 => delayStep .rd3 s
  | .rd3 => goto .rd4 s
  | .rd4 => delayStep .rd5 s
  | .rd5 => goto .rd6a s
  | .rd6a => goto .rd6b s
  | .rd6b => goto .rd6c { s with rx := setBit s.rx s.bitCnt.val (level .data s) }
  | .rd6c => nextBit .rd6a .rd7a s
  | .rd7a => goto .rd7b s
  | .rd7b => goto .rd8a s
  | .rd8a => goto .rd8b s
  | .rd8b => goto .rd9 s
  | .rd9 => goto .rd10 (driveLow .clock s)
  | .rd10 => returnToCaller (keepReadByte s)
  | .rs0 => goto .rs1 { s with resetOut := true }
  | .rs1 => delayStep .rs2 s
  | .rs2 => completeCall { s with resetOut := false }
  | .esFinal => esFinalStep s
  | .p3 =>
    let t := offerReport (setReport s.q s)
    if t.aborted then t else goto .p6 t
  | .p6 => { s with busy := false, dispState := .idle, seqOp := .idle, seqPc := .idle }

/-- Whether the micro-step at the position can complete now: a `WaitUntil` "is enabled only in states where `c`
holds of the current `Level` values" (R133), a `Delay` completes "when the delay source says so" (R130), and
everything else "at once". -/
def microReady (s : State) : Bool :=
  match stepKind s.seqPc with
  | .none => false
  | .action => true
  | .delay => !s.dlyReq || s.dlyDone
  | .waitClock b => level .clock s == b
  | .waitBoth b => level .clock s == b && level .data s == b

/-- When the sequencer has a step: an operation is in progress, the engine has not aborted (R266), and the
micro-step can complete. -/
def seqEnabled (s : State) : Bool :=
  s.busy && !s.aborted && microReady s

/-- One turn of the sequencer: its micro-step where it is enabled; elsewhere it holds (R133). -/
def seqStep (s : State) : State :=
  if seqEnabled s then microStep s else s

end Sys2Proof.Machine
end

