-- ==== Sys2Proof/Machine/Reporting.lean ====
section
/-! DEFINITION. Report Dispatch (spec/43_report_dispatch.md R230 to R244): the acceptance of a tick, and one
dispatch period in each variant. -/

namespace Sys2Proof.Machine

/-- A tick is accepted for `TICK_STREAM` (R231): streaming variant, not aborted, dispatcher Idle. -/
def tickStreamLegal (s : State) : Bool :=
  s.cfg.variant == .streaming && !s.aborted && s.dispState == .idle

/-- T4 to T8 of R232 for a Sample read fresh: Dispatching, Format, submit, Idle again unless aborted. -/
def dispatchSample (p : Sample) (s : State) : State :=
  let t := offerReport (setReport p { s with dispState := .dispatching })
  if t.aborted then t else { t with dispState := .idle }

/-- T1 to T8 of R232, one critical section (decision D33); a tick that is not accepted is dropped (R231). -/
def tickStreamStep (s : State) : State :=
  if tickStreamLegal s then
    match cacheConsume s with
    | ((true, p), t) => dispatchSample p t
    | ((false, _), t) => t
  else s

/-- A tick is accepted for `TICK_POLL` (R231, R241): polling variant, not aborted, dispatcher Idle, not busy. -/
def tickPollLegal (s : State) : Bool :=
  s.cfg.variant == .polling && !s.aborted && s.dispState == .idle && !s.busy

/-- P1 of R240; P2 to P6 are the sequencer's (Sequencer.lean). DESIGN CHOICE (log 34): `seq_op` is `tickPoll` from P1 to
P6. A tick that is not accepted is dropped (R231). -/
def tickPollStep (s : State) : State :=
  if tickPollLegal s then beginSequence .tickPoll { s with dispState := .dispatching } else s

/-- The operation a tick starts (R231). -/
def tickInstr (c : Config) : Instr :=
  match c.variant with
  | .streaming => .tickStream
  | .polling => .tickPoll

end Sys2Proof.Machine
end

