-- ==== Sys2Proof/Machine/Lockstep.lean ====
section
/-! DEFINITION. Whole wire transactions: the engine and the conforming device of
spec/70_reset_and_hazards.md R331 to R334, in the lockstep of R335: "the device advances its clock by one phase
only after the host has observed the previous phase ..., and in streaming the device produces its next falling
edge only after the `EDGE` step for the previous one". The wire formats, command bytes and sequences of
spec/30_encoding.md are executed by these (log 16). A device that keeps to no contract acts through
`Input.device`. -/

namespace Sys2Proof.Machine

/-- The sequencer is in a `Delay` it has asked for and that is not over. -/
def delayPending (s : State) : Bool :=
  s.busy && !s.aborted && stepKind s.seqPc == .delay && s.dlyReq && !s.dlyDone

/-- The engine or the delay source can do something without the device moving. -/
def canSettle (s : State) : Bool :=
  edgeEnabled s || seqEnabled s || delayPending s

/-- One thing the engine or the delay source does without the device moving. -/
def settleStep (s : State) : State :=
  if edgeEnabled s then edgeAction s
  else if seqEnabled s then microStep s
  else delayDone s

/-- At most `n` of them, until the engine waits for the device. -/
def settleFor : Nat → State → State
  | 0, s => s
  | n + 1, s => if canSettle s then settleFor n (settleStep s) else s

/-- The engine runs until it waits for the device. Between two waits lie at most 18 turns, so 40 are enough
(log 32). -/
def settle (s : State) : State := settleFor 40 s

/-- The device changes its drives, and the engine observes the phase. -/
def phase (c d : Drive) (s : State) : State := settle (setDevice c d s)

/-- The device at rest: it drives nothing. -/
def deviceRests (s : State) : State := phase .rel .rel s

/-- One cell of a device-to-host frame (R332): DATA while CLOCK is high, CLOCK low, CLOCK released. -/
def sendCell (b : Bool) (s : State) : State :=
  phase .rel (driveOfBit b) (phase .low (driveOfBit b) (phase .rel (driveOfBit b) s))

/-- The data cells of a byte from bit `i` on, `n` of them. -/
def sendBits (v : Byte) : Nat → Nat → State → State
  | 0, _, s => s
  | n + 1, i, s => sendBits v n (i + 1) (sendCell (v.getLsbD i) s)

/-- The eleven cells of a device-to-host frame, then DATA released (R332). DESIGN CHOICE (log 35): the device does not
look at the host's drives again, so a host that drives CLOCK low in mid-frame does not stop it. -/
def sendCells (f : D2hFrame) (s : State) : State :=
  deviceRests (sendCell f.stop (sendCell f.parity (sendBits f.byte 8 0 (sendCell f.start s))))

/-- The device sends a byte frame. It begins only "with both lines released by the host" (R332): while the host
drives CLOCK low it "does not begin a frame" (R334, log 17). -/
def sendFrame (f : D2hFrame) (s : State) : State :=
  let t := deviceRests s
  if hostReleased t then sendCells f t else t

/-- The request to send: "CLOCK released by the host while DATA is low" (R331). -/
def requestToSend (s : State) : Bool :=
  s.hostClock == .rel && s.hostData == .low

/-- "it releases CLOCK, latches `Level(DATA)` during that high phase, and pulls CLOCK low again" (R331). -/
def latchCell (s : State) : State :=
  let t := phase .rel .rel s
  phase .low .rel { t with devFrame := t.devFrame ++ [level .data t] }

/-- `n` latched cells. -/
def latchCells : Nat → State → State
  | 0, s => s
  | n + 1, s => latchCells n (latchCell s)

/-- The device's side of a host-to-device frame (R331): it takes the clock, latches D0..D7, P and STOP, and
acknowledges by pulling both lines low and releasing both. -/
def clockFrame (s : State) : State :=
  let t := latchCells 10 (phase .low .rel { s with devFrame := [] })
  phase .rel .rel (phase .low .low (phase .rel .low (phase .rel .rel t)))

/-- The device answers a request to send, if there is one. -/
def answerRequest (s : State) : State :=
  let t := deviceRests s
  if requestToSend t then clockFrame t else t

/-- The operation in progress is at, or comes to, its request to send byte `v`: CLOCK released and DATA low (R331).
DESIGN CHOICE (log 36): a 0 cell in mid-frame of a `write_byte(v)` shows the same drives, and the device takes it for a
request too. -/
def requestsByte (v : Byte) (s : State) : Bool :=
  let t := deviceRests s
  s.busy && !s.aborted && requestToSend t && t.tx == v

/-- One H2D frame of byte `v` (R92, R100): the frame the operation in progress is about to send, or, with the
sequencer free, the frame of a `write_byte(v)`; a `write_byte` that is refused sends nothing (log 22). -/
def transferByte (v : Byte) (s : State) : State :=
  if requestsByte v s || callLegal .writeByte s then answerRequest (if s.busy then s else callWriteByte v s) else s

/-- A byte to the device, and the acknowledgment byte it answers (R101, R333). -/
def exchange (ack : Byte) (s : State) : State :=
  sendFrame (conformingFrame ack) (answerRequest s)

end Sys2Proof.Machine
end

