-- ==== Sys2Proof/Machine/Command.lean ====
section
/-! DEFINITION. The rows of format CMD: requests on the command port (spec/30_encoding.md R110 to R114).
Acceptance starts the micro-program, which the sequencer then runs turn by turn (Sequencer.lean). -/

namespace Sys2Proof.Machine

/-- `write_byte(value)` requested (spec/40_protocol_engine.md R135). -/
def execWriteByte (value : Byte) (s : State) : Host.Outcome State Fault Refusal :=
  .next (callWriteByte value s)

/-- `read_byte()` requested (spec/40_protocol_engine.md R145). -/
def execReadByte (s : State) : Host.Outcome State Fault Refusal :=
  .next (callPlain .readByte s)

/-- `reset()` requested (spec/41_device_controller.md R171). -/
def execReset (s : State) : Host.Outcome State Fault Refusal :=
  .next (callPlain .reset s)

/-- `write_ram(location, value)` requested (spec/41_device_controller.md R174). -/
def execWriteRam (location value : Byte) (s : State) : Host.Outcome State Fault Refusal :=
  .next (callWriteRam location value s)

/-- `set_sensitivity_factor(value)` requested (spec/41_device_controller.md R177). -/
def execSetSensitivityFactor (value : Byte) (s : State) : Host.Outcome State Fault Refusal :=
  .next (callSetSensitivity value s)

/-- `enable_streaming()` requested (spec/41_device_controller.md R178). -/
def execEnableStreaming (s : State) : Host.Outcome State Fault Refusal :=
  .next (callPlain .enableStreaming s)

/-- `query_sample()` requested (spec/41_device_controller.md R183). -/
def execQuerySample (s : State) : Host.Outcome State Fault Refusal :=
  .next (callPlain .querySample s)

/-- Code `0x0`: "no operation; ignored" (R110). -/
def execNop (s : State) : Host.Outcome State Fault Refusal :=
  .next s

/-- Codes `0x8` to `0xF`: "refused: no state changes, `busy` stays 0, no response" (R113, log 7). -/
def execReservedCmd (_code : BitVec 4) (s : State) : Host.Outcome State Fault Refusal :=
  .next s

/-- The calls the command source issues at start-up, in order, `reset()` being optional; "the engine does not
enforce the order; it executes what it is given" (spec/41_device_controller.md R186). -/
def startupCalls (c : Config) (withReset : Bool) : List Instr :=
  (if withReset then [Instr.reset] else []) ++ [Instr.setSensitivityFactor c.sensValue] ++
    match c.variant with
    | .streaming => [Instr.enableStreaming]
    | .polling => []

end Sys2Proof.Machine
end

