-- ==== Sys2Proof/Machine/Event.lean ====
section
/-! DEFINITION. The rows of format EVENT (spec/30_encoding.md R111): each is one bounded step, or, for
`TICK_POLL`, the start of a sequence (spec/60_exceptions.md R271). -/

namespace Sys2Proof.Machine

/-- `EDGE` (spec/42_edge_sampler.md R203). -/
def execEdge (s : State) : Host.Outcome State Fault Refusal :=
  .next (edgeStep s)

/-- `FRAME_START` (spec/42_edge_sampler.md R210). -/
def execFrameStart (s : State) : Host.Outcome State Fault Refusal :=
  .next (frameStartStep s)

/-- `TICK_STREAM` (spec/43_report_dispatch.md R232). -/
def execTickStream (s : State) : Host.Outcome State Fault Refusal :=
  .next (tickStreamStep s)

/-- `TICK_POLL` (spec/43_report_dispatch.md R240). -/
def execTickPoll (s : State) : Host.Outcome State Fault Refusal :=
  .next (tickPollStep s)

/-- `hw_reset` (spec/70_reset_and_hazards.md R300). -/
def execHwReset (s : State) : Host.Outcome State Fault Refusal :=
  .next (hardwareReset s)

end Sys2Proof.Machine
end

