-- ==== Sys2Proof/Machine/Sequence.lean ====
section
/-! DEFINITION. The rows of formats SEQ, LINE and RECORD: a controller operation with the device's answers, the
whole RESET pulse, and one report (spec/30_encoding.md R102 to R107). A sequence whose operation is refused
leaves the state as it is. -/

namespace Sys2Proof.Machine

/-- WRITE_RAM (R102): the eight byte frames of `write_ram(location, value)`. -/
def execSeqWriteRam (location value ack0 ack1 ack2 ack3 : Byte) (s : State) : Host.Outcome State Fault Refusal :=
  .next <|
    if callLegal .writeRam s then
      exchange ack3 (exchange ack2 (exchange ack1 (exchange ack0 (callWriteRam location value s))))
    else s

/-- ENABLE_STREAMING (R103): the four byte frames of `enable_streaming()`, then the release. -/
def execSeqEnableStreaming (ack0 ack1 : Byte) (s : State) : Host.Outcome State Fault Refusal :=
  .next <|
    if callLegal .enableStreaming s then exchange ack1 (exchange ack0 (callPlain .enableStreaming s)) else s

/-- QUERY (R104): the five byte frames of `query_sample()`. -/
def execSeqQuery (ack0 state x y : Byte) (s : State) : Host.Outcome State Fault Refusal :=
  .next <|
    if callLegal .querySample s then
      sendFrame (conformingFrame y) (sendFrame (conformingFrame x) (sendFrame (conformingFrame state)
        (exchange ack0 (callPlain .querySample s))))
    else s

/-- RESET_PULSE (R105): `reset()` from its request to its end; it contains no `WaitUntil`
(spec/41_device_controller.md R171). -/
def execResetPulse (s : State) : Host.Outcome State Fault Refusal :=
  .next (if callLegal .reset s then settle (callPlain .reset s) else s)

/-- RPT (R106, R107): the record of a Sample is assembled and offered to the sink, as in T5 to T7 and P3 to P5
(log 20). After Abort nothing is offered (spec/60_exceptions.md R266). -/
def execRpt (sample : Sample) (s : State) : Host.Outcome State Fault Refusal :=
  .next (if s.aborted then s else offerReport (setReport sample s))

end Sys2Proof.Machine
end

