-- ==== Sys2Proof/Machine/Wire.lean ====
section
/-! DEFINITION. The rows of formats WIRE, H2D byte and D2H byte: transfers on the Lines with a conforming device
in lockstep (spec/30_encoding.md R92 to R101). -/

namespace Sys2Proof.Machine

/-- H2D: one byte frame from host to device (R92). -/
def execH2d (value : Byte) (s : State) : Host.Outcome State Fault Refusal :=
  .next (transferByte value s)

/-- D2H: one byte frame from device to host (R95), decoded by a `read_byte` in progress in POLLING, by `EDGE` in
STREAMING, and by nobody otherwise (R115). -/
def execD2h (frame : D2hFrame) (s : State) : Host.Outcome State Fault Refusal :=
  .next (sendFrame frame s)

/-- MOV: "three D2H byte frames sent by the device in the order `state`, `x`, `y`" (R98). -/
def execMov (state x y : D2hFrame) (s : State) : Host.Outcome State Fault Refusal :=
  .next (sendFrame y (sendFrame x (sendFrame state s)))

/-- The "read-data" byte, "sent as one H2D frame by `write_byte`" (R100). -/
def execCmdReadData (s : State) : Host.Outcome State Fault Refusal :=
  .next (transferByte s.cfg.cmdReadData s)

/-- The "RAM-select" byte (R100). -/
def execCmdRamSelect (s : State) : Host.Outcome State Fault Refusal :=
  .next (transferByte s.cfg.cmdRamSelect s)

/-- The "RAM-set" byte (R100). -/
def execCmdRamSet (s : State) : Host.Outcome State Fault Refusal :=
  .next (transferByte s.cfg.cmdRamSet s)

/-- The "set-stream-mode" byte (R100). -/
def execCmdSetStreamMode (s : State) : Host.Outcome State Fault Refusal :=
  .next (transferByte s.cfg.cmdSetStreamMode s)

/-- The "enable-reporting" byte (R100). -/
def execCmdEnableReporting (s : State) : Host.Outcome State Fault Refusal :=
  .next (transferByte s.cfg.cmdEnableReporting s)

/-- The device's acknowledgment byte, of any value: one conforming D2H frame (R101). The `read_byte` of a
sequence takes it and the sequence discards it. -/
def execAck (value : Byte) (s : State) : Host.Outcome State Fault Refusal :=
  .next (sendFrame (conformingFrame value) s)

end Sys2Proof.Machine
end

