-- ==== Sys2Proof/Machine/Dispatch.lean ====
section
/-! DEFINITION. The meaning of each instruction: one arm per row of spec/opcode_table.json. -/

namespace Sys2Proof.Machine

def exec (i : Instr) (s : State) : Host.Outcome State Fault Refusal :=
  match i with
  | .writeByte value => Sys2Proof.Machine.execWriteByte value s
  | .readByte => Sys2Proof.Machine.execReadByte s
  | .reset => Sys2Proof.Machine.execReset s
  | .writeRam location value => Sys2Proof.Machine.execWriteRam location value s
  | .setSensitivityFactor value => Sys2Proof.Machine.execSetSensitivityFactor value s
  | .enableStreaming => Sys2Proof.Machine.execEnableStreaming s
  | .querySample => Sys2Proof.Machine.execQuerySample s
  | .nop => Sys2Proof.Machine.execNop s
  | .reservedCmd code => Sys2Proof.Machine.execReservedCmd code s
  | .edge => Sys2Proof.Machine.execEdge s
  | .frameStart => Sys2Proof.Machine.execFrameStart s
  | .tickStream => Sys2Proof.Machine.execTickStream s
  | .tickPoll => Sys2Proof.Machine.execTickPoll s
  | .hwReset => Sys2Proof.Machine.execHwReset s
  | .h2d value => Sys2Proof.Machine.execH2d value s
  | .d2h frame => Sys2Proof.Machine.execD2h frame s
  | .mov state x y => Sys2Proof.Machine.execMov state x y s
  | .cmdReadData => Sys2Proof.Machine.execCmdReadData s
  | .cmdRamSelect => Sys2Proof.Machine.execCmdRamSelect s
  | .cmdRamSet => Sys2Proof.Machine.execCmdRamSet s
  | .cmdSetStreamMode => Sys2Proof.Machine.execCmdSetStreamMode s
  | .cmdEnableReporting => Sys2Proof.Machine.execCmdEnableReporting s
  | .ack value => Sys2Proof.Machine.execAck value s
  | .seqWriteRam location value ack0 ack1 ack2 ack3 => Sys2Proof.Machine.execSeqWriteRam location value ack0 ack1 ack2 ack3 s
  | .seqEnableStreaming ack0 ack1 => Sys2Proof.Machine.execSeqEnableStreaming ack0 ack1 s
  | .seqQuery ack0 state x y => Sys2Proof.Machine.execSeqQuery ack0 state x y s
  | .resetPulse => Sys2Proof.Machine.execResetPulse s
  | .rpt sample => Sys2Proof.Machine.execRpt sample s

end Sys2Proof.Machine
end

