-- ==== Sys2Proof/Machine/Boundary.lean ====
section
/-! DEFINITION. What one entry of `inputs` does, what the engine does when nothing is placed, and how a word is
placed (spec/60_exceptions.md R268, R270; log 1, log 2, log 28). -/

namespace Sys2Proof.Machine

/-- With nothing placed the engine's own agents go on: a pending `EDGE`, else the sequencer, else nothing
(log 2). -/
def ownTurn (s : State) : State :=
  if edgeEnabled s then edgeAction s else seqStep s

/-- A word is decoded and executed; a word that encodes no row is refused by name (log 5). -/
def runWord (bytes : List Byte) (s : State) : Host.Outcome State Fault Refusal :=
  match decode bytes with
  | .ok (i, _) => exec i s
  | .error why => .refused (.undecodable why)

/-- One entry of `inputs`. -/
def takeInput (e : Input) (s : State) : Host.Outcome State Fault Refusal :=
  match e with
  | .word bytes => runWord bytes s
  | .tick => exec (tickInstr s.cfg) s
  | .device c d => .next (setDevice c d s)
  | .sink a => .next { s with rptResult := a }
  | .delayDone => .next (delayDone s)
  | .seqTurn => .next (seqStep s)

/-- The state an entry acts on: strobes over, the entry taken off the list. -/
def afterFetch (rest : List Input) (s : State) : State :=
  { clearStrobes s with inputs := rest }

/-- One entry in front of everything else that is to happen. -/
def place (e : Input) (s : State) : State :=
  { s with inputs := e :: s.inputs }

end Sys2Proof.Machine
end

