-- ==== Sys2Proof/Machine/Step.lean ====
section
/-! DEFINITION. One step of the machine: the oldest entry of `inputs`, or the engine's own turn. -/

namespace Sys2Proof.Machine

/-- One step. -/
def step (s : State) : Host.Outcome State Fault Refusal :=
  match s.inputs with
  | [] => .next (ownTurn (clearStrobes s))
  | e :: rest => takeInput e (afterFetch rest s)

/-- `s` with the table word placed where the next step takes it (log 28). -/
def State.withFetchWord (s : State) (nbits w : Nat) : State :=
  place (.word (tableWordBytes nbits w)) s

end Sys2Proof.Machine
end

