-- ==== Sys2Proof/Safety.lean ====
section
/-! DEFINITION. What a legal state of the engine is, in the terms claims use: the regime, the sequencer's
position, the drives and the parity that go with it, the dispatcher, and the delay and report ports. Each part is
an abbreviation of a decidable proposition. -/

namespace Sys2Proof.Machine

/-- "in `POLLING_VARIANT` `mode` stays `POLLING` for ever" (spec/10_state.md R30). -/
abbrev VariantMode (s : State) : Prop :=
  s.cfg.variant = .polling → s.mode = .polling

/-- "the host never drives a Line in `mode = STREAMING`" (spec/70_reset_and_hazards.md R336), and no operation is
in progress there (spec/30_encoding.md R114). -/
abbrev StreamingQuiet (s : State) : Prop :=
  s.mode = .streaming → s.hostClock = .rel ∧ s.hostData = .rel ∧ s.busy = false

/-- In POLLING the sampler is at rest and nothing has been published since reset (spec/42_edge_sampler.md R201,
spec/10_state.md R42). -/
abbrev PollingAtRest (s : State) : Prop :=
  s.mode = .polling → s.edgePending = false ∧ s.byteIdx = 0 ∧ s.bitIdx = 0 ∧ s.dataAvailable = false

/-- "All three are 0 whenever `byte_idx = 0 and bit_idx = 0`" (spec/10_state.md R47). -/
abbrev AccClear (s : State) : Prop :=
  s.byteIdx = 0 ∧ s.bitIdx = 0 → s.acc = ⟨0, 0, 0⟩

/-- `busy` is 1 exactly while an operation is in progress (spec/10_state.md R32, R33). -/
abbrev BusyMatches (s : State) : Prop :=
  (s.busy = true ↔ s.seqOp ≠ .idle) ∧ (s.seqOp = .idle ↔ s.seqPc = .idle)

/-- The operation in progress is one this build has (spec/30_encoding.md R114, spec/43_report_dispatch.md
R231). -/
abbrev OpInVariant (s : State) : Prop :=
  (s.seqOp = .enableStreaming → s.cfg.variant = .streaming) ∧
  (s.seqOp = .querySample ∨ s.seqOp = .tickPoll → s.cfg.variant = .polling)

/-- The part of a program a label stands in. -/
inductive LabelPart where
  | none
  | write
  | read
  | pulse
  | final
  | report
deriving DecidableEq, Repr

/-- Which part each label stands in. -/
def labelPart (pc : Label) : LabelPart :=
  match pc with
  | .idle => .none
  | .wr0 | .wr1 | .wr2 | .wr3 | .wr4 | .wr5 | .wr6 | .wr7 | .wr8 | .wr9a | .wr9b | .wr9c | .wr9d
  | .wr10a | .wr10b | .wr10c | .wr11 | .wr12 | .wr13 | .wr14 | .wr15 => .write
  | .rd0 | .rd1 | .rd2 | .rd3 | .rd4 | .rd5 | .rd6a | .rd6b | .rd6c | .rd7a | .rd7b | .rd8a | .rd8b
  | .rd9 | .rd10 => .read
  | .rs0 | .rs1 | .rs2 => .pulse
  | .esFinal => .final
  | .p3 | .p6 => .report

/-- The position is one of the fixed sequences': the label stands in the part that the call `cmd_idx` of the
operation begins, or in the operation's own tail (spec/10_state.md R33, spec/41_device_controller.md R170). -/
def positionLegal (op : SeqOp) (idx : Fin 8) (pc : Label) : Bool :=
  match labelPart pc with
  | .none => op == .idle
  | .write => entryLabel op idx == .wr0 && idx ≤ lastIdx op
  | .read => entryLabel op idx == .rd0 && idx ≤ lastIdx op
  | .pulse => op == .reset
  | .final => op == .enableStreaming && idx == 4
  | .report => op == .tickPoll

/-- `positionLegal` of the state's own position. -/
abbrev PositionLegal (s : State) : Prop :=
  positionLegal s.seqOp s.cmdIdx s.seqPc = true

/-- The host's drives at each label: what the line actions of R135 and R145 up to there leave. `none` means that
the label leaves the drive open. -/
def drivesAt (pc : Label) : Option Drive × Option Drive :=
  match pc with
  | .wr2 | .wr3 | .wr12 | .wr13 | .wr14 | .wr15 => (some .rel, some .rel)
  | .wr4 | .wr5 => (some .low, some .rel)
  | .wr6 | .wr7 => (some .low, some .low)
  | .wr8 => (some .rel, some .low)
  | .wr9a | .wr9b | .wr9c | .wr9d | .wr10a | .wr10b | .wr10c | .wr11 => (some .rel, none)
  | .rd2 | .rd3 | .rd4 | .rd5 | .rd6a | .rd6b | .rd6c | .rd7a | .rd7b | .rd8a | .rd8b | .rd9 => (some .rel, some .rel)
  | .rd10 => (some .low, some .rel)
  | .esFinal | .p3 | .p6 => (some .low, some .rel)
  | _ => (none, none)

/-- "In every hang `busy` stays 1 and the Lines keep the drives of the last completed micro-step"
(spec/40_protocol_engine.md R143); after a sequence's byte operations the Lines are in the hold-off state (R131,
spec/41_device_controller.md R179). -/
abbrev DrivesMatch (s : State) : Prop :=
  (∀ d, (drivesAt s.seqPc).1 = some d → s.hostClock = d) ∧ (∀ d, (drivesAt s.seqPc).2 = some d → s.hostData = d)

/-- Between two byte operations of one sequence the host holds CLOCK low and DATA released
(spec/40_protocol_engine.md R131, R150). -/
abbrev HoldOff (s : State) : Prop :=
  (s.seqPc = .wr0 ∨ s.seqPc = .rd0) ∧ s.cmdIdx ≠ 0 → s.hostClock = .low ∧ s.hostData = .rel

/-- The parity register along `write_byte` (spec/10_state.md R36, spec/40_protocol_engine.md R140). -/
abbrev ParityMatches (s : State) : Prop :=
  match s.seqPc with
  | .wr1 | .wr2 | .wr3 | .wr4 | .wr5 | .wr6 | .wr7 | .wr8 => s.par = true ∧ s.bitCnt = 0
  | .wr9a | .wr9b | .wr9c | .wr9d => s.par = parityAfter s.tx s.bitCnt.val
  | .wr10a | .wr10b | .wr10c | .wr11 | .wr12 | .wr13 | .wr14 | .wr15 => s.par = oddParity s.tx
  | _ => True

/-- A delay is asked for only in a `Delay` micro-step, and answered only where it is asked for
(spec/40_protocol_engine.md R134). -/
abbrev DelayMatches (s : State) : Prop :=
  (s.dlyReq = true → stepKind s.seqPc = .delay) ∧ (s.dlyDone = true → s.dlyReq = true)

/-- The dispatcher is Dispatching exactly during a `TICK_POLL`, or because the engine aborted inside a dispatch
(spec/10_state.md R49, spec/43_report_dispatch.md R244). -/
abbrev DispatchMatches (s : State) : Prop :=
  (s.seqOp = .tickPoll → s.dispState = .dispatching) ∧
  (s.dispState = .dispatching → s.aborted = true ∨ s.seqOp = .tickPoll)

/-- A report as `Format` makes it: "`buttons: 8-bit` (only bits 0–2 meaningful), `wheel: signed 8-bit` (always 0),
`pan: signed 8-bit` (always 0)" (spec/10_state.md R50). -/
abbrev ReportShape (r : Report) : Prop :=
  r.buttons.toNat < 8 ∧ r.wheel = 0 ∧ r.pan = 0

/-- What the sink is shown has that shape. -/
abbrev ReportMatches (s : State) : Prop :=
  s.rptValid = true → ReportShape s.report

/-- A legal state. -/
structure Inv (s : State) : Prop where
  variantMode     : VariantMode s
  streamingQuiet  : StreamingQuiet s
  pollingAtRest   : PollingAtRest s
  accClear        : AccClear s
  busyMatches     : BusyMatches s
  opInVariant     : OpInVariant s
  positionLegal   : PositionLegal s
  drivesMatch     : DrivesMatch s
  holdOff         : HoldOff s
  parityMatches   : ParityMatches s
  delayMatches    : DelayMatches s
  dispatchMatches : DispatchMatches s
  reportMatches   : ReportMatches s

/-- The sequencer is free, in POLLING, in an engine that has not aborted, with no delay asked for: a call of any
operation that `VARIANT` allows is accepted (spec/30_encoding.md R112). -/
structure Ready (s : State) : Prop where
  free    : s.busy = false
  alive   : s.aborted = false
  polling : s.mode = .polling
  noDelay : s.dlyReq = false

/-- The sampler is active, with no edge pending, no dispatch in progress and the Lines the device's
(spec/42_edge_sampler.md R200, R203). -/
structure Sampling (s : State) : Prop where
  streaming : s.mode = .streaming
  alive     : s.aborted = false
  free      : s.busy = false
  taken     : s.edgePending = false
  dispIdle  : s.dispState = .idle
  clockRel  : s.hostClock = .rel
  dataRel   : s.hostData = .rel

/-- The sequencer waits for the START cell of a byte frame: RD3 of a `read_byte`, alone or in a composite operation
(spec/40_protocol_engine.md R145, R147). -/
structure WaitsForByte (s : State) : Prop where
  busy     : s.busy = true
  alive    : s.aborted = false
  polling  : s.mode = .polling
  noDelay  : s.dlyReq = false
  atRd3    : s.seqPc = .rd3
  clockRel : s.hostClock = .rel
  dataRel  : s.hostData = .rel
  bit0     : s.bitCnt = 0
  cleared  : s.rx = 0

/-- What a conforming device latches of the frame of `v`: "the ten latched values are D0..D7, P and STOP"
(spec/70_reset_and_hazards.md R331), cells 1 to 10 of format H2D (spec/30_encoding.md R92). -/
def latchedCells (v : Byte) : List Bool :=
  (List.range 10).map fun k => (h2dCells v).getLsbD (k + 1)

/-- A turn at a `Delay(n)`: asked for, then held until it is over, then the next label; nothing else changes
(spec/40_protocol_engine.md R134, log 11). -/
def delayTurn (n : Micros) (next : Label) (s : State) : State :=
  if s.dlyReq = false then { s with dlyReq := true, dlyLen := n, dlyDone := false }
  else if s.dlyDone then { s with dlyReq := false, dlyDone := false, seqPc := next }
  else s

/-- A turn at a `WaitUntil(c)`: the next label where `c` holds, else nothing (spec/40_protocol_engine.md R133). -/
def waitTurn (c : Bool) (next : Label) (s : State) : State :=
  if c then { s with seqPc := next } else s

/-- The state a whole `write_byte(v)` leaves, from a free sequencer and with a conforming device: "End state:
`host_drive[CLOCK] = LOW`, `host_drive[DATA] = REL`" (spec/40_protocol_engine.md R144), `tx`, `par`, the response
(spec/30_encoding.md R112), the delay port as the last `Delay` left it (log 11), and what the device latched. -/
def wroteByte (v : Byte) (s : State) : State :=
  { s with
    hostClock := .low, hostData := .rel, busy := false, seqOp := .idle, seqPc := .idle, bitCnt := 7, cmdIdx := 0,
    tx := v, par := oddParity v, rspValid := true, dlyReq := false, dlyLen := s.cfg.tSettle, dlyDone := false,
    devClock := .rel, devData := .rel, devFrame := latchedCells v }

/-- The state a whole `read_byte()` of byte `b` leaves, from a free sequencer and with a conforming device
(spec/40_protocol_engine.md R152). -/
def tookByte (b : Byte) (s : State) : State :=
  { s with
    hostClock := .low, hostData := .rel, busy := false, seqOp := .idle, seqPc := .idle, bitCnt := 7, cmdIdx := 0,
    rx := b, rspValid := true, dlyReq := false, dlyLen := s.cfg.tGuard, dlyDone := false,
    devClock := .rel, devData := .rel }

/-- The byte whose bits, from bit 0 up, are the first eight of a list: LSB-first assembly (spec/20_memory.md
R75). -/
def byteOfBits (l : List Bool) : Byte :=
  (List.range 8).foldl (fun v i => setBit v i (l.getD i false)) 0

/-- The rows a port of the engine takes as they are: format CMD and format EVENT (spec/30_encoding.md R110,
R111). -/
def isPortRow (i : Instr) : Bool :=
  match i with
  | .writeByte _ | .readByte | .reset | .writeRam _ _ | .setSensitivityFactor _ | .enableStreaming | .querySample
  | .nop | .reservedCmd _ | .edge | .frameStart | .tickStream | .tickPoll | .hwReset => true
  | .h2d _ | .d2h _ | .mov _ _ _ | .cmdReadData | .cmdRamSelect | .cmdRamSet | .cmdSetStreamMode
  | .cmdEnableReporting | .ack _ | .seqWriteRam _ _ _ _ _ _ | .seqEnableStreaming _ _ | .seqQuery _ _ _ _
  | .resetPulse | .rpt _ => false

/-- The entries of a list, one after another. -/
def runInputs : List Input → State → Option State
  | [], s => some s
  | e :: l, s =>
    match takeInput e s with
    | .next t => runInputs l t
    | .fault _ => none
    | .refused _ => none

/-- The instructions of a list, one after another. -/
def runInstrs : List Instr → State → Option State
  | [], s => some s
  | i :: l, s =>
    match exec i s with
    | .next t => runInstrs l t
    | .fault _ => none
    | .refused _ => none

/-- The row a boundary entry presents, if it presents one: a decoded word, or the operation a tick starts. -/
def rowOf (c : Config) (e : Input) : Option Instr :=
  match e with
  | .word bytes =>
    match decode bytes with
    | .ok (i, _) => some i
    | .error _ => none
  | .tick => some (tickInstr c)
  | .device _ _ | .sink _ | .delayDone | .seqTurn => none

/-- An entry that is one thing at one port, or one turn: no wire transaction, and no word that encodes no row. -/
def isPrimitive (c : Config) (e : Input) : Bool :=
  match e with
  | .word _ => (rowOf c e).any isPortRow
  | .tick | .device _ _ | .sink _ | .delayDone | .seqTurn => true

/-- The engine's own state: everything but the build's parameters, what the outside drives and shows, and what
happens next. Two states that agree here are the same engine. -/
def engineOf (s : State) : State :=
  { s with rptResult := .accepted, devClock := .rel, devData := .rel, devFrame := [], inputs := [], dlyDone := false }

end Sys2Proof.Machine
end

