-- ==== Sys2Proof/Certificates/Slice0/Obligations.lean ====
section
/-! DEFINITION. The statements for the provers, from the numbered rules of spec/. Each is about every state, every
operand and every value of the parameters (a state carries its own `cfg`); what a statement assumes of the state is
in its hypotheses. -/

open Sys2Proof Sys2Proof.Machine

/-! ### Encoding -/

/-- Every well-formed instruction decodes from its word, whatever bytes follow it (spec/30_encoding.md R92, R95, R98,
R100, R101, R110; the words of rows without bits are the model's, log 5). -/
def Obligations.DecodeOfEncode : Prop :=
  ∀ (i : Instr) (rest : List Byte), i.wf = true → decode (encode i ++ rest) = .ok (i, rest)

/-- Whatever bytes are decoded, the instruction is well-formed and its operands were all there: a reserved code is
`0x8` to `0xF` (R113). That a word is a list of bytes, and that the decoder consumes at least one, is the model's own
form (log 5). -/
def Obligations.DecodedIsWellFormed : Prop :=
  ∀ (bytes rest : List Byte) (i : Instr), decode bytes = .ok (i, rest) →
    i.wf = true ∧ rest.length < bytes.length

/-- The select codes of the command port with their operands, and the operands that are ignored (R110). -/
def Obligations.SelectCodes : Prop :=
  ∀ a b : Byte,
    decode [0x0, a, b] = .ok (.nop, []) ∧ decode [0x1, a, b] = .ok (.writeByte a, []) ∧
    decode [0x2, a, b] = .ok (.readByte, []) ∧ decode [0x3, a, b] = .ok (.reset, []) ∧
    decode [0x4, a, b] = .ok (.writeRam a b, []) ∧ decode [0x5, a, b] = .ok (.setSensitivityFactor a, []) ∧
    decode [0x6, a, b] = .ok (.enableStreaming, []) ∧ decode [0x7, a, b] = .ok (.querySample, []) ∧
    ∀ c : BitVec 4, 8 ≤ c.toNat → decode [c.setWidth 8, a, b] = .ok (.reservedCmd c, [])

/-- A few words written out cell by cell from spec/95_test_vectors.md: V-P1's frame of `0x5A`, V-P4's three frames of
`0xFA`, V-S1's movement frame, and the match values of R100 and R101. -/
def Obligations.WordsOfTheVectors : Prop :=
  -- `0 01011010 1 1`, then ACK 0
  decode [0x20, 0b10110100, 0b0110] = .ok (.h2d 0x5A, []) ∧
  -- `0 01011111 1 1`, `0 01011111 0 1`, `1 01011111 0 0`
  decode [0x21, 0b11110100, 0b111] = .ok (.d2h ⟨false, 0xFA, true, true⟩, []) ∧
  decode [0x21, 0b11110100, 0b101] = .ok (.d2h ⟨false, 0xFA, false, true⟩, []) ∧
  decode [0x21, 0b11110101, 0b001] = .ok (.d2h ⟨true, 0xFA, false, false⟩, []) ∧
  -- `0 10000000 0 1` `0 10100000 1 1` `0 11011111 0 1`
  decode [0x22, 0b00000010, 0b01010100, 0b10110000, 0b01111101, 0b1] =
    .ok (.mov (conformingFrame 0x01) (conformingFrame 0x05) (conformingFrame 0xFB), []) ∧
  decode [0xEB] = .ok (.cmdReadData, []) ∧ decode [0xE2] = .ok (.cmdRamSelect, []) ∧
  decode [0x81] = .ok (.cmdRamSet, []) ∧ decode [0xEA] = .ok (.cmdSetStreamMode, []) ∧
  decode [0xF4] = .ok (.cmdEnableReporting, []) ∧ decode [0xFA, 0x42] = .ok (.ack 0x42, [])

/-- A D2H frame is never validated: every one of the `2^11` cell sequences decodes to a byte, cells 1..8 LSB-first,
and `read_byte` returns it, whatever START, parity and STOP are (R96). The tag `0x21` is the model's (log 5), and the
frame runs in lockstep (log 16). -/
def Obligations.AllD2hCellsAccepted : Prop :=
  ∀ c : BitVec 11, ∃ f : D2hFrame,
    decode [0x21, c.setWidth 8, (c >>> 8).setWidth 8] = .ok (.d2h f, []) ∧
    (∀ k, k < 8 → f.byte.getLsbD k = c.getLsbD (k + 1)) ∧
    ∀ s : State, Ready s → ∃ t, runInstrs [.readByte, .d2h f] s = some t ∧ t.rx = f.byte ∧ t.rspValid = true

/-- The parity bit `write_byte(v)` transmits is `1 XOR (popcount(v) mod 2)`: the ninth cell a conforming device latches.
The nine cells D0..D7, P hold an odd number of ones, and 128 of the 256 bytes have P = 1 (R93). The frame is the H2D row,
in lockstep (log 16, log 22), and the latched cells are the model's record of them (log 18). -/
def Obligations.ParityBitTransmitted : Prop :=
  (∀ (s : State) (v : Byte), Ready s → ∃ t u, exec (.writeByte v) s = .next t ∧ exec (.h2d v) t = .next u ∧
    u.devFrame[8]? = some (xor true (popcount v % 2 == 1)) ∧ (u.devFrame.take 9).count true % 2 = 1) ∧
  ((List.range 256).filter fun n => oddParity (BitVec.ofNat 8 n)).length = 128

/-! ### Steps -/

/-- A step takes the oldest entry; where that is a word that decodes to `i`, the step is `exec i` on the state with
the strobes over and the entry taken (spec/60_exceptions.md R268; log 1, log 12). -/
def Obligations.StepRunsDecodedWord : Prop :=
  ∀ (s : State) (bytes more : List Byte) (rest : List Input) (i : Instr),
    s.inputs = .word bytes :: rest → decode bytes = .ok (i, more) →
    i.wf = true ∧ step s = exec i { s with rspValid := false, rptValid := false, inputs := rest }

/-- What a step does with every other entry, and with none: a word that encodes no row is refused by name (log 5), a
tick runs the variant's dispatch (spec/43_report_dispatch.md R231), the device drives (spec/10_state.md R24; log 19),
the sink's answer changes (spec/60_exceptions.md R279; log 19), a delay that was asked for is over
(spec/60_exceptions.md R278; the handshake is the model's, log 11), the sequencer takes its turn, and with nothing placed
a pending EDGE goes first (spec/60_exceptions.md R270; log 1, log 2). The strobes of the step before are over (log 12).
-/
def Obligations.StepTakesOtherEntries : Prop :=
  ∀ (s : State) (rest : List Input),
    (∀ bytes why, s.inputs = .word bytes :: rest → decode bytes = .error why → step s = .refused (.undecodable why)) ∧
    (s.inputs = .tick :: rest → step s = exec (tickInstr s.cfg) (afterFetch rest s)) ∧
    (∀ c d, s.inputs = .device c d :: rest → step s = .next (setDevice c d (afterFetch rest s))) ∧
    (∀ a, s.inputs = .sink a :: rest → step s = .next { afterFetch rest s with rptResult := a }) ∧
    (s.inputs = .delayDone :: rest →
      step s = .next { afterFetch rest s with dlyDone := s.dlyReq || s.dlyDone }) ∧
    (s.inputs = .seqTurn :: rest → step s = .next (seqStep (afterFetch rest s))) ∧
    (s.inputs = [] → edgeEnabled s = true → step s = .next (edgeStep (clearStrobes s))) ∧
    (s.inputs = [] → edgeEnabled s = false → step s = .next (seqStep (clearStrobes s)))

/-- A placed table word is what the next step runs, on the state as it was with the strobes over (log 28). -/
def Obligations.FetchWordIsRun : Prop :=
  ∀ (s : State) (nbits w : Nat) (i : Instr), decodeTableWord nbits w = some i →
    step (s.withFetchWord nbits w) = exec i { s with rspValid := false, rptValid := false }

/-- No step changes a parameter: the timing constants "are protocol constants, not configurable: no operation and no
port changes them at run time" (spec/00_scope.md R10), and `VARIANT` is the build's (R9). -/
def Obligations.ParametersConstant : Prop :=
  ∀ s t : State, step s = .next t → t.cfg = s.cfg

/-! ### The command port -/

/-- A call is accepted when the sequencer is free, in POLLING, not aborted: `busy` is set, the operands are latched, and
the micro-program starts at its first label; nothing else changes (R112; spec/10_state.md R38; `cmd_idx` starts at 0,
log 31). -/
def Obligations.CallsAccepted : Prop :=
  ∀ s : State, s.busy = false → s.aborted = false → s.mode = .polling →
    (∀ v, exec (.writeByte v) s =
      .next { s with busy := true, seqOp := .writeByte, cmdIdx := 0, seqPc := .wr0, tx := v }) ∧
    exec .readByte s = .next { s with busy := true, seqOp := .readByte, cmdIdx := 0, seqPc := .rd0 } ∧
    exec .reset s = .next { s with busy := true, seqOp := .reset, cmdIdx := 0, seqPc := .rs0 } ∧
    (∀ l v, exec (.writeRam l v) s =
      .next { s with busy := true, seqOp := .writeRam, cmdIdx := 0, seqPc := .wr0, argLoc := l, argVal := v }) ∧
    ∀ v, exec (.setSensitivityFactor v) s =
      .next { s with
        busy := true, seqOp := .setSensitivityFactor, cmdIdx := 0, seqPc := .wr0,
        argLoc := s.cfg.sensAddr, argVal := v }

/-- The two calls that one variant has and the other has not (R114). -/
def Obligations.VariantCallsAccepted : Prop :=
  ∀ s : State, s.busy = false → s.aborted = false → s.mode = .polling →
    (s.cfg.variant = .streaming →
      exec .enableStreaming s = .next { s with busy := true, seqOp := .enableStreaming, cmdIdx := 0, seqPc := .wr0 }) ∧
    (s.cfg.variant = .polling →
      exec .querySample s = .next { s with busy := true, seqOp := .querySample, cmdIdx := 0, seqPc := .wr0 })

/-- A call that is busy's, Abort's, the regime's or the variant's to refuse changes no state and produces no response
(R112, R114, spec/60_exceptions.md R264; that the refusal is a next state is read from these, log 7). -/
def Obligations.IllegalCallsRefused : Prop :=
  ∀ s : State,
    (s.busy = true ∨ s.aborted = true ∨ s.mode = .streaming →
      (∀ v, exec (.writeByte v) s = .next s) ∧ exec .readByte s = .next s ∧ exec .reset s = .next s ∧
      (∀ l v, exec (.writeRam l v) s = .next s) ∧ (∀ v, exec (.setSensitivityFactor v) s = .next s) ∧
      exec .enableStreaming s = .next s ∧ exec .querySample s = .next s) ∧
    (s.cfg.variant = .streaming → exec .querySample s = .next s) ∧
    (s.cfg.variant = .polling → exec .enableStreaming s = .next s)

/-- Reserved select codes change nothing and answer nothing (R113; log 7), and the no-operation code is ignored (R110).
That a request is a word of three bytes is the model's own form (log 5). -/
def Obligations.NopAndReservedIgnored : Prop :=
  (∀ s : State, exec .nop s = .next s) ∧
  ∀ (c : BitVec 4) (a b : Byte), 8 ≤ c.toNat →
    decode [c.setWidth 8, a, b] = .ok (.reservedCmd c, []) ∧ ∀ s : State, exec (.reservedCmd c) s = .next s

/-! ### The sequencer -/

/-- The micro-program of `write_byte`, label by label (spec/40_protocol_engine.md R135). In a composite operation WR0
loads the byte the caller names; after WR15 the caller goes on (`CompositeSequences`). The model's choices: the delay
handshake (log 11), the loop's end in WR9d (log 33), the completion in the step of WR15 (log 13). -/
def Obligations.WriteByteProgram : Prop :=
  ∀ s : State, s.busy = true → s.aborted = false → s.mode = .polling →
    (s.seqPc = .wr0 → seqStep s = { s with tx := callByte s, par := true, bitCnt := 0, seqPc := .wr1 }) ∧
    (s.seqOp = .writeByte → callByte s = s.tx) ∧
    (s.seqPc = .wr1 → seqStep s = { s with hostClock := .rel, hostData := .rel, seqPc := .wr2 }) ∧
    (s.seqPc = .wr2 → seqStep s = delayTurn s.cfg.tBrief .wr3 s) ∧
    (s.seqPc = .wr3 → seqStep s = { s with hostClock := .low, seqPc := .wr4 }) ∧
    (s.seqPc = .wr4 → seqStep s = delayTurn s.cfg.tSetup .wr5 s) ∧
    (s.seqPc = .wr5 → seqStep s = { s with hostData := .low, seqPc := .wr6 }) ∧
    (s.seqPc = .wr6 → seqStep s = delayTurn s.cfg.tPreRelease .wr7 s) ∧
    (s.seqPc = .wr7 → seqStep s = { s with hostClock := .rel, seqPc := .wr8 }) ∧
    (s.seqPc = .wr8 → seqStep s = waitTurn (!level .clock s) .wr9a s) ∧
    (s.seqPc = .wr9a → seqStep s = { s with hostData := if s.tx.getLsbD s.bitCnt.val then .rel else .low, seqPc := .wr9b }) ∧
    (s.seqPc = .wr9b → seqStep s = waitTurn (level .clock s) .wr9c s) ∧
    (s.seqPc = .wr9c → seqStep s = waitTurn (!level .clock s) .wr9d s) ∧
    (s.seqPc = .wr9d → seqStep s =
      let t := { s with par := xor s.par (s.tx.getLsbD s.bitCnt.val) }
      if s.bitCnt.val < 7 then { t with bitCnt := s.bitCnt + 1, seqPc := .wr9a } else { t with seqPc := .wr10a }) ∧
    (s.seqPc = .wr10a → seqStep s = { s with hostData := if s.par then .rel else .low, seqPc := .wr10b }) ∧
    (s.seqPc = .wr10b → seqStep s = waitTurn (level .clock s) .wr10c s) ∧
    (s.seqPc = .wr10c → seqStep s = waitTurn (!level .clock s) .wr11 s) ∧
    (s.seqPc = .wr11 → seqStep s = { s with hostData := .rel, seqPc := .wr12 }) ∧
    (s.seqPc = .wr12 → seqStep s = delayTurn s.cfg.tSettle .wr13 s) ∧
    (s.seqPc = .wr13 → seqStep s = waitTurn (!level .clock s && !level .data s) .wr14 s) ∧
    (s.seqPc = .wr14 → seqStep s = waitTurn (level .clock s && level .data s) .wr15 s) ∧
    (s.seqPc = .wr15 → seqStep s = returnToCaller { s with hostClock := .low }) ∧
    (s.seqPc = .wr15 → s.seqOp = .writeByte → s.cmdIdx = 0 →
      seqStep s = { s with hostClock := .low, busy := false, seqOp := .idle, seqPc := .idle, rspValid := true })

/-- The micro-program of `read_byte`, label by label (spec/40_protocol_engine.md R145). The model's choices: the delay
handshake (log 11), the loop's end in RD6c (log 33), the completion in the step of RD10 (log 13). -/
def Obligations.ReadByteProgram : Prop :=
  ∀ s : State, s.busy = true → s.aborted = false → s.mode = .polling →
    (s.seqPc = .rd0 → seqStep s = { s with rx := 0, bitCnt := 0, seqPc := .rd1 }) ∧
    (s.seqPc = .rd1 → seqStep s = { s with hostClock := .rel, hostData := .rel, seqPc := .rd2 }) ∧
    (s.seqPc = .rd2 → seqStep s = delayTurn s.cfg.tSettle .rd3 s) ∧
    (s.seqPc = .rd3 → seqStep s = waitTurn (!level .clock s) .rd4 s) ∧
    (s.seqPc = .rd4 → seqStep s = delayTurn s.cfg.tGuard .rd5 s) ∧
    (s.seqPc = .rd5 → seqStep s = waitTurn (level .clock s) .rd6a s) ∧
    (s.seqPc = .rd6a → seqStep s = waitTurn (!level .clock s) .rd6b s) ∧
    (s.seqPc = .rd6b → ∃ v : Byte, v.getLsbD s.bitCnt.val = level .data s ∧
      (∀ k, k ≠ s.bitCnt.val → v.getLsbD k = s.rx.getLsbD k) ∧ seqStep s = { s with rx := v, seqPc := .rd6c }) ∧
    (s.seqPc = .rd6c → seqStep s =
      waitTurn (level .clock s) (if s.bitCnt.val < 7 then .rd6a else .rd7a)
        (if level .clock s = true ∧ s.bitCnt.val < 7 then { s with bitCnt := s.bitCnt + 1 } else s)) ∧
    (s.seqPc = .rd7a → seqStep s = waitTurn (!level .clock s) .rd7b s) ∧
    (s.seqPc = .rd7b → seqStep s = waitTurn (level .clock s) .rd8a s) ∧
    (s.seqPc = .rd8a → seqStep s = waitTurn (!level .clock s) .rd8b s) ∧
    (s.seqPc = .rd8b → seqStep s = waitTurn (level .clock s) .rd9 s) ∧
    (s.seqPc = .rd9 → seqStep s = { s with hostClock := .low, seqPc := .rd10 }) ∧
    (s.seqPc = .rd10 → seqStep s = returnToCaller (keepReadByte s)) ∧
    (s.seqPc = .rd10 → s.seqOp = .readByte → s.cmdIdx = 0 →
      seqStep s = { s with busy := false, seqOp := .idle, seqPc := .idle, rspValid := true })

/-- The composite operations: the calls they make, in order, the byte each call transmits, what the caller keeps of a
byte read, and how a call returns: "no conditional step, no early exit, no retry"
(spec/41_device_controller.md R170, R174, R177, R178, R183). -/
def Obligations.CompositeSequences : Prop :=
  (∀ s : State, s.seqOp = .writeRam ∨ s.seqOp = .setSensitivityFactor →
    ([0, 1, 2, 3, 4, 5, 6, 7].map (entryLabel s.seqOp) = [.wr0, .rd0, .wr0, .rd0, .wr0, .rd0, .wr0, .rd0]) ∧
    lastIdx s.seqOp = 7 ∧
    (s.cmdIdx = 0 → callByte s = s.cfg.cmdRamSelect) ∧ (s.cmdIdx = 2 → callByte s = s.cfg.cmdRamSet) ∧
    (s.cmdIdx = 4 → callByte s = s.argLoc) ∧ (s.cmdIdx = 6 → callByte s = s.argVal) ∧ keepReadByte s = s) ∧
  (∀ s : State, s.seqOp = .enableStreaming →
    ([0, 1, 2, 3, 4].map (entryLabel s.seqOp) = [.wr0, .rd0, .wr0, .rd0, .esFinal]) ∧ lastIdx s.seqOp = 4 ∧
    (s.cmdIdx = 0 → callByte s = s.cfg.cmdSetStreamMode) ∧ (s.cmdIdx = 2 → callByte s = s.cfg.cmdEnableReporting) ∧
    keepReadByte s = s) ∧
  (∀ s : State, s.seqOp = .querySample ∨ s.seqOp = .tickPoll →
    ([0, 1, 2, 3, 4].map (entryLabel s.seqOp) = [.wr0, .rd0, .rd0, .rd0, .rd0]) ∧ lastIdx s.seqOp = 4 ∧
    callByte s = s.cfg.cmdReadData ∧ (s.cmdIdx = 1 → keepReadByte s = s) ∧
    (s.cmdIdx = 2 → keepReadByte s = { s with q := { s.q with state := s.rx } }) ∧
    (s.cmdIdx = 3 → keepReadByte s = { s with q := { s.q with x := s.rx } }) ∧
    (s.cmdIdx = 4 → keepReadByte s = { s with q := { s.q with y := s.rx } })) ∧
  ∀ s : State,
    (s.cmdIdx ≠ lastIdx s.seqOp →
      returnToCaller s = { s with cmdIdx := s.cmdIdx + 1, seqPc := entryLabel s.seqOp (s.cmdIdx + 1) }) ∧
    (s.cmdIdx = lastIdx s.seqOp → s.seqOp ≠ .tickPoll →
      returnToCaller s = { s with busy := false, seqOp := .idle, seqPc := .idle, rspValid := true }) ∧
    (s.cmdIdx = lastIdx s.seqOp → s.seqOp = .tickPoll → returnToCaller s = { s with seqPc := .p3 })

/-- The hang points are exactly the `WaitUntil` micro-steps: an operation in progress whose sequencer has no step, with
no delay outstanding, stands at one of them with its condition false, and its turn changes nothing
(spec/40_protocol_engine.md R133, spec/60_exceptions.md R262). -/
def Obligations.HangPoints : Prop :=
  ∀ s : State, s.busy = true → s.aborted = false → s.seqPc ≠ .idle → s.dlyReq = false →
    (seqEnabled s = false ↔
      (s.seqPc ∈ [.wr8, .wr9c, .wr10c, .rd3, .rd6a, .rd7a, .rd8a] ∧ level .clock s = true) ∨
      (s.seqPc ∈ [.wr9b, .wr10b, .rd5, .rd6c, .rd7b, .rd8b] ∧ level .clock s = false) ∨
      (s.seqPc = .wr13 ∧ ¬ (level .clock s = false ∧ level .data s = false)) ∨
      (s.seqPc = .wr14 ∧ ¬ (level .clock s = true ∧ level .data s = true))) ∧
    (seqEnabled s = false → takeInput .seqTurn s = .next s)

/-- `reset()`, label by label and whole: one pulse on RESET, one delay of `T_RESET_HOLD`, and a response; CLOCK, DATA
and everything else stay (spec/41_device_controller.md R171; the delay port's residue is log 11, and that the LINE row runs
the whole pulse in one step is log 16). -/
def Obligations.ResetPulse : Prop :=
  (∀ s : State, s.busy = true → s.aborted = false →
    (s.seqPc = .rs0 → seqStep s = { s with resetOut := true, seqPc := .rs1 }) ∧
    (s.seqPc = .rs1 → seqStep s = delayTurn s.cfg.tResetHold .rs2 s) ∧
    (s.seqPc = .rs2 → seqStep s =
      { s with resetOut := false, busy := false, seqOp := .idle, seqPc := .idle, rspValid := true })) ∧
  ∀ s : State, Ready s → exec .resetPulse s = .next { s with
    resetOut := false, busy := false, seqOp := .idle, seqPc := .idle, cmdIdx := 0, rspValid := true,
    dlyReq := false, dlyLen := s.cfg.tResetHold, dlyDone := false }

/-- ES_FINAL, one indivisible step: both lines released, STREAMING, the sampler cleared, and the response
(spec/41_device_controller.md R180). In STREAMING, with no operation in progress, a turn of the sequencer does nothing.
-/
def Obligations.EsFinalStep : Prop :=
  (∀ s : State, s.busy = true → s.aborted = false → s.mode = .polling → s.seqPc = .esFinal →
    seqStep s = { s with
      hostClock := .rel, hostData := .rel, mode := .streaming, edgePending := false, byteIdx := 0, bitIdx := 0,
      acc := ⟨0, 0, 0⟩, busy := false, seqOp := .idle, seqPc := .idle, rspValid := true }) ∧
  ∀ s : State, s.mode = .streaming → s.busy = false → seqStep s = s

/-- The tail of `TICK_POLL`: the query's triple is formatted directly and offered once "in the same step"
(spec/10_state.md R50), and INVALID raises Abort, after which `busy` stays 1 (spec/43_report_dispatch.md R240; P3, P4 and
P5 are one step, log 14). -/
def Obligations.TickPollTail : Prop :=
  ∀ s : State, s.busy = true → s.aborted = false →
    (s.seqPc = .p3 → s.rptResult = .invalid →
      seqStep s = { s with report := formatReport s.cfg s.q, rptValid := true, aborted := true }) ∧
    (s.seqPc = .p3 → s.rptResult ≠ .invalid →
      seqStep s = { s with report := formatReport s.cfg s.q, rptValid := true, seqPc := .p6 }) ∧
    (s.seqPc = .p6 → seqStep s = { s with busy := false, dispState := .idle, seqOp := .idle, seqPc := .idle })

/-! ### The sampler -/

/-- Levels are the wired-AND of the two drives; the engine cannot write the device's; and the device's can change
between any two steps, to anything (spec/10_state.md R24). -/
def Obligations.LevelIsWiredAnd : Prop :=
  (∀ s : State,
    (level .clock s = false ↔ s.hostClock = .low ∨ s.devClock = .low) ∧
    (level .data s = false ↔ s.hostData = .low ∨ s.devData = .low)) ∧
  (∀ (s t : State) (i : Instr), isPortRow i = true → exec i s = .next t →
    t.devClock = s.devClock ∧ t.devData = s.devData) ∧
  (∀ s : State, (seqStep s).devClock = s.devClock ∧ (seqStep s).devData = s.devData) ∧
  ∀ (s : State) (c d : Drive), ∃ t, takeInput (.device c d) s = .next t ∧ t.devClock = c ∧ t.devData = d

/-- The edge detector: in STREAMING, not aborted, a falling edge of `Level(CLOCK)` sets `edge_pending`, whichever party
makes it, and one that finds it set changes nothing; in POLLING no edge sets it, neither the device's nor the
sequencer's (spec/42_edge_sampler.md R201). -/
def Obligations.EdgeDetector : Prop :=
  (∀ (s : State) (c d : Drive),
    takeInput (.device c d) s = .next { s with
      devClock := c, devData := d,
      edgePending := s.edgePending ||
        (s.mode == .streaming && !s.aborted && level .clock s && (s.hostClock == .low || c == .low)) }) ∧
  (∀ (s : State) (d : Drive),
    setHost .clock d s = { s with
      hostClock := d,
      edgePending := s.edgePending || (s.mode == .streaming && !s.aborted && level .clock s && d == .low) }) ∧
  ∀ s : State, s.mode = .polling → (seqStep s).edgePending = true → s.edgePending = true

/-- `EDGE`, where it is enabled, cell by cell, and nowhere else (spec/42_edge_sampler.md R203). The sampler is active in
STREAMING only (R201), and an aborted engine takes no step (spec/60_exceptions.md R266). That the dispatcher holds the
critical section of R68 exactly where the streaming build's `disp_state` is Dispatching is the model's reading (log 15).
-/
def Obligations.EdgeStep : Prop :=
  ∀ s : State,
    (s.edgePending = false ∨ s.mode = .polling ∨ s.aborted = true ∨
        (s.cfg.variant = .streaming ∧ s.dispState = .dispatching) → exec .edge s = .next s) ∧
    (s.edgePending = true → s.mode = .streaming → s.aborted = false →
        ¬ (s.cfg.variant = .streaming ∧ s.dispState = .dispatching) →
      (s.bitIdx = 0 ∨ s.bitIdx = 9 →
        exec .edge s = .next { s with edgePending := false, bitIdx := s.bitIdx + 1 }) ∧
      (1 ≤ s.bitIdx.val → s.bitIdx.val ≤ 8 → ∃ v : Byte, v.getLsbD (s.bitIdx.val - 1) = level .data s ∧
        (∀ k, k ≠ s.bitIdx.val - 1 → v.getLsbD k = (accByte s.acc s.byteIdx).getLsbD k) ∧
        exec .edge s = .next { s with
          edgePending := false, bitIdx := s.bitIdx + 1, acc := setAccByte s.acc s.byteIdx v }) ∧
      (s.bitIdx = 10 → s.byteIdx ≠ 2 →
        exec .edge s = .next { s with edgePending := false, bitIdx := 0, byteIdx := s.byteIdx + 1 }) ∧
      (s.bitIdx = 10 → s.byteIdx = 2 →
        exec .edge s = .next { s with
          edgePending := false, bitIdx := 0, byteIdx := 0, acc := ⟨0, 0, 0⟩,
          sample := ⟨s.acc.b0, s.acc.b1, s.acc.b2⟩, dataAvailable := true }))

/-- `FRAME_START` discards the partial frame and touches nothing else; outside STREAMING it has no effect
(spec/42_edge_sampler.md R210, R213). -/
def Obligations.FrameStartDiscards : Prop :=
  ∀ s : State,
    (s.mode = .streaming → s.aborted = false →
      exec .frameStart s = .next { s with byteIdx := 0, bitIdx := 0, acc := ⟨0, 0, 0⟩ }) ∧
    (s.mode = .polling ∨ s.aborted = true → exec .frameStart s = .next s)

/-! ### The dispatcher -/

/-- Which operation a tick starts, and when it is dropped (spec/43_report_dispatch.md R231, R241); a streaming build's
tick that finds no fresh Sample does nothing (R232 T2), and an accepted `TICK_POLL` does P1 of R240. The model's: no test
of `mode` (log 30), `cmd_idx` at 0 and the first label at acceptance (log 31), the value `tickPoll` (log 34). -/
def Obligations.TickAcceptance : Prop :=
  ∀ s : State,
    (s.cfg.variant = .streaming → takeInput .tick s = exec .tickStream s) ∧
    (s.cfg.variant = .polling → takeInput .tick s = exec .tickPoll s) ∧
    (s.aborted = true ∨ s.dispState = .dispatching → takeInput .tick s = .next s) ∧
    (s.cfg.variant = .polling → s.busy = true → takeInput .tick s = .next s) ∧
    (s.cfg.variant = .streaming → s.dataAvailable = false → takeInput .tick s = .next s) ∧
    (s.cfg.variant = .polling → s.aborted = false → s.dispState = .idle → s.busy = false →
      exec .tickPoll s = .next { s with
        dispState := .dispatching, busy := true, seqOp := .tickPoll, cmdIdx := 0, seqPc := .wr0 })

/-- `TICK_STREAM`, one dispatch period: no report where the flag is clear; where it is set, the flag is cleared and the
Sample's report is offered once, whatever the sink answers; INVALID raises Abort inside the dispatch
(spec/43_report_dispatch.md R232, R233). -/
def Obligations.TickStreamDispatches : Prop :=
  ∀ s : State, s.cfg.variant = .streaming → s.aborted = false → s.dispState = .idle →
    (s.dataAvailable = false → exec .tickStream s = .next s) ∧
    (s.dataAvailable = true → s.rptResult ≠ .invalid → exec .tickStream s = .next { s with
      dataAvailable := false, report := formatReport s.cfg s.sample, rptValid := true }) ∧
    (s.dataAvailable = true → s.rptResult = .invalid → exec .tickStream s = .next { s with
      dataAvailable := false, report := formatReport s.cfg s.sample, rptValid := true,
      dispState := .dispatching, aborted := true })

/-- Freshness gating: after an accepted tick, whatever happens at the boundary "with no publish in between", the next
tick offers nothing, whatever the Sample holds: an `EDGE` publishes only where it is enabled at the last cell of a third
byte. Where the flag is set the Sample is offered, whatever was offered before (spec/43_report_dispatch.md R234). -/
def Obligations.FreshnessGating : Prop :=
  (∀ (s t u : State) (l : List Input), s.cfg.variant = .streaming → s.aborted = false → s.dispState = .idle →
    exec .tickStream s = .next t → (∀ e ∈ l, isPrimitive s.cfg e = true) →
    (∀ (before after : List Input) (e : Input) (v : State),
      l = before ++ e :: after → runInputs before t = some v → rowOf s.cfg e = some .edge →
      ¬ (edgeEnabled v = true ∧ v.byteIdx = 2 ∧ v.bitIdx = 10)) →
    runInputs l t = some u → exec .tickStream u = .next u) ∧
  ∀ s : State, s.cfg.variant = .streaming → s.aborted = false → s.dispState = .idle → s.dataAvailable = true →
    ∃ t, exec .tickStream s = .next t ∧ t.rptValid = true ∧ t.report = formatReport s.cfg s.sample

/-- `Format`: `x` unchanged, `y` negated with saturation at the one value that overflows, the lowest three bits of
`state`, wheel and pan 0 (spec/43_report_dispatch.md R236; spec/30_encoding.md R107). What -128 is reported as is the
parameter `NEG128` of R237, whose place in `cfg` is the model's choice (log 23). -/
def Obligations.FormatReport : Prop :=
  ∀ (c : Config) (p : Sample),
    (formatReport c p).x = p.x ∧ (formatReport c p).buttons.toNat = p.state.toNat % 8 ∧
    (formatReport c p).wheel = 0 ∧ (formatReport c p).pan = 0 ∧
    (p.y.toInt ≠ -128 → (formatReport c p).y.toInt = -p.y.toInt) ∧
    (p.y.toInt = -128 → c.neg128 = .saturate → (formatReport c p).y.toInt = 127) ∧
    (p.y.toInt = -128 → c.neg128 = .wrap → (formatReport c p).y.toInt = -128)

/-- A record of format RPT is a Sample's report, assembled and offered once (spec/30_encoding.md R106, R107; executed
alone it is the model's row, log 20); after Abort nothing is offered. -/
def Obligations.RptOffered : Prop :=
  ∀ (s : State) (p : Sample),
    (s.aborted = false → s.rptResult ≠ .invalid →
      exec (.rpt p) s = .next { s with report := formatReport s.cfg p, rptValid := true }) ∧
    (s.aborted = false → s.rptResult = .invalid →
      exec (.rpt p) s = .next { s with report := formatReport s.cfg p, rptValid := true, aborted := true }) ∧
    (s.aborted = true → exec (.rpt p) s = .next s)

/-! ### Reset and Abort -/

/-- `hw_reset`, at any time and whatever is in progress: every element R301 gives a value takes it, and what is not the
engine's stays (spec/70_reset_and_hazards.md R300, R301, R304; the elements left unspecified are free, log 9). That the
sink's answer, the latched cells and the schedule stay is the model's choice (log 1, log 18, log 19). -/
def Obligations.HwResetState : Prop :=
  ∀ s : State, ∃ t, exec .hwReset s = .next t ∧
    t.hostClock = .rel ∧ t.hostData = .rel ∧ t.resetOut = false ∧ t.mode = .polling ∧ t.busy = false ∧
    t.seqOp = .idle ∧ t.seqPc = .idle ∧ t.cmdIdx = 0 ∧ t.bitCnt = 0 ∧
    t.edgePending = false ∧ t.byteIdx = 0 ∧ t.bitIdx = 0 ∧ t.acc = ⟨0, 0, 0⟩ ∧
    t.dataAvailable = false ∧ t.dispState = .idle ∧ t.aborted = false ∧
    t.cfg = s.cfg ∧ t.devClock = s.devClock ∧ t.devData = s.devData ∧ t.devFrame = s.devFrame ∧
    t.rptResult = s.rptResult ∧ t.inputs = s.inputs

/-- `State.reset` has every value R301 states (spec/70_reset_and_hazards.md R301); the values of the elements R301
leaves unspecified are the model's (log 10) and are not stated. -/
def Obligations.ResetState : Prop :=
  State.reset.hostClock = .rel ∧ State.reset.hostData = .rel ∧ State.reset.resetOut = false ∧
  State.reset.mode = .polling ∧ State.reset.busy = false ∧ State.reset.seqOp = .idle ∧ State.reset.seqPc = .idle ∧
  State.reset.cmdIdx = 0 ∧ State.reset.bitCnt = 0 ∧ State.reset.edgePending = false ∧ State.reset.byteIdx = 0 ∧
  State.reset.bitIdx = 0 ∧ State.reset.acc = ⟨0, 0, 0⟩ ∧ State.reset.dataAvailable = false ∧
  State.reset.dispState = .idle ∧ State.reset.aborted = false

/-- Abort: raised where the sink answers INVALID and nowhere else, it ends the operation where it stands, and from then
on no step but `hw_reset` changes the engine (spec/10_state.md R51, spec/60_exceptions.md R266). That it is a next state,
and that strobes and the outside's ports may still change, is the model's reading (log 8). -/
def Obligations.AbortIsFinal : Prop :=
  (∀ s : State, s.aborted = false → s.rptResult = .invalid →
    (s.cfg.variant = .streaming → s.dispState = .idle → s.dataAvailable = true →
      ∃ t, exec .tickStream s = .next t ∧ t.aborted = true ∧ t.busy = s.busy) ∧
    (s.busy = true → s.seqPc = .p3 → ∃ t, takeInput .seqTurn s = .next t ∧ t.aborted = true ∧ t.busy = true)) ∧
  (∀ s t : State, s.aborted = true → step s = .next t →
    (∀ e rest, s.inputs = e :: rest → rowOf s.cfg e ≠ some .hwReset) →
    engineOf t = engineOf { s with rspValid := false, rptValid := false }) ∧
  (∀ s t : State, s.aborted = false → step s = .next t → t.aborted = true → s.rptResult = .invalid) ∧
  ∀ s : State, ∃ t, exec .hwReset s = .next t ∧ t.aborted = false

/-! ### Wire transactions -/

/-- A whole byte frame to the device, from a free sequencer: the end state of `write_byte(v)`, with the ten cells a
conforming device latches (spec/30_encoding.md R92; spec/40_protocol_engine.md R135, R144;
spec/70_reset_and_hazards.md R331; lockstep, log 16; the row starts the `write_byte`, log 22). -/
def Obligations.H2dTransfers : Prop :=
  ∀ (s : State) (v : Byte), Ready s →
    exec (.h2d v) s = .next (wroteByte v s) ∧
    (∃ t, exec (.writeByte v) s = .next t ∧ exec (.h2d v) t = .next (wroteByte v s)) ∧
    (wroteByte v s).devFrame = (List.range 8).map v.getLsbD ++ [oddParity v, true]

/-- Each device command byte is sent as one H2D frame, with the parameter's value
(spec/30_encoding.md R100; log 6, log 22). -/
def Obligations.CommandBytesTransferred : Prop :=
  ∀ s : State, Ready s →
    exec .cmdReadData s = .next (wroteByte s.cfg.cmdReadData s) ∧
    exec .cmdRamSelect s = .next (wroteByte s.cfg.cmdRamSelect s) ∧
    exec .cmdRamSet s = .next (wroteByte s.cfg.cmdRamSet s) ∧
    exec .cmdSetStreamMode s = .next (wroteByte s.cfg.cmdSetStreamMode s) ∧
    exec .cmdEnableReporting s = .next (wroteByte s.cfg.cmdEnableReporting s)

/-- A whole byte frame from the device, taken by a `read_byte()`: its byte, whatever START, parity and STOP are
(spec/40_protocol_engine.md R145, R149, R152; spec/70_reset_and_hazards.md R332; lockstep, log 16). -/
def Obligations.D2hRead : Prop :=
  ∀ (s : State) (f : D2hFrame), Ready s →
    ∃ t, exec .readByte s = .next t ∧ exec (.d2h f) t = .next (tookByte f.byte s)

/-- In POLLING, with no operation in progress, frames are not decoded at all: only the device's drives move
(spec/30_encoding.md R115; the frames are the lockstep rows, log 16, log 17, log 21). -/
def Obligations.FramesIgnoredWhenIdle : Prop :=
  ∀ (s : State) (f g h : D2hFrame) (v : Byte), s.mode = .polling → s.busy = false →
    exec (.d2h f) s = .next { s with devClock := .rel, devData := .rel } ∧
    exec (.ack v) s = .next { s with devClock := .rel, devData := .rel } ∧
    exec (.mov f g h) s = .next { s with devClock := .rel, devData := .rel }

/-- A byte frame in STREAMING: eleven `EDGE` steps put its byte into `acc`, and the third byte publishes
(spec/42_edge_sampler.md R203, R205; spec/30_encoding.md R97; lockstep, log 16). -/
def Obligations.D2hSampled : Prop :=
  ∀ (s : State) (f : D2hFrame), Sampling s → s.bitIdx = 0 → accByte s.acc s.byteIdx = 0 →
    (s.byteIdx ≠ 2 → exec (.d2h f) s = .next { s with
      devClock := .rel, devData := .rel, byteIdx := s.byteIdx + 1, acc := setAccByte s.acc s.byteIdx f.byte }) ∧
    (s.byteIdx = 2 → exec (.d2h f) s = .next { s with
      devClock := .rel, devData := .rel, byteIdx := 0, acc := ⟨0, 0, 0⟩,
      sample := ⟨s.acc.b0, s.acc.b1, f.byte⟩, dataAvailable := true })

/-- A movement frame in STREAMING, aligned: one publish of `state`, `x`, `y` in that order, and the sampler is again at
its initial frame state (spec/30_encoding.md R98; spec/42_edge_sampler.md R205, R206). -/
def Obligations.MovPublishes : Prop :=
  ∀ (s : State) (a b c : D2hFrame), Sampling s → s.byteIdx = 0 → s.bitIdx = 0 → s.acc = ⟨0, 0, 0⟩ →
    exec (.mov a b c) s = .next { s with
      devClock := .rel, devData := .rel, sample := ⟨a.byte, b.byte, c.byte⟩, dataAvailable := true }

/-- Frame atomicity: from any partial frame, `FRAME_START` and then a movement frame publish that frame's bytes and no
other (spec/42_edge_sampler.md R212, R214). The frame runs in lockstep (log 16): with a device on its own clock an edge
may be lost. -/
def Obligations.ResynchronisedFrame : Prop :=
  ∀ (s : State) (a b c : D2hFrame), Sampling s →
    ∃ t u, exec .frameStart s = .next t ∧ t.sample = s.sample ∧ t.dataAvailable = s.dataAvailable ∧
      exec (.mov a b c) t = .next u ∧ u.sample = ⟨a.byte, b.byte, c.byte⟩ ∧ u.dataAvailable = true ∧
      u.byteIdx = 0 ∧ u.bitIdx = 0 ∧ u.acc = ⟨0, 0, 0⟩

/-- The acknowledgment byte in a `write_ram`: read into `rx`, and the sequence goes on to its next request to send with
the next byte of the sequence, whatever the acknowledgment was (spec/30_encoding.md R101;
spec/41_device_controller.md R174, R175). -/
def Obligations.AckDiscarded : Prop :=
  ∀ (s : State) (v : Byte), WaitsForByte s → s.seqOp = .writeRam → s.cmdIdx = 1 ∨ s.cmdIdx = 3 ∨ s.cmdIdx = 5 →
    exec (.ack v) s = .next { s with
      devClock := .rel, devData := .rel, hostClock := .rel, hostData := .low, rx := v, bitCnt := 0,
      cmdIdx := s.cmdIdx + 1, seqPc := .wr8, par := true, dlyLen := s.cfg.tPreRelease, dlyDone := false,
      tx := if s.cmdIdx = 1 then s.cfg.cmdRamSet else if s.cmdIdx = 3 then s.argLoc else s.argVal }

/-- No acknowledgment value matters: in every operation that discards the byte it waits for, two values leave states that
differ in `rx` at most, "the engine does not compare it with anything" (spec/30_encoding.md R101; the acknowledgment is
the lockstep row, log 16). -/
def Obligations.AckValueUnseen : Prop :=
  ∀ (s t u : State) (v w : Byte), WaitsForByte s →
    (s.seqOp = .writeRam ∨ s.seqOp = .setSensitivityFactor) ∧ s.cmdIdx.val % 2 = 1 ∨
      s.seqOp = .enableStreaming ∧ (s.cmdIdx = 1 ∨ s.cmdIdx = 3) ∨
      (s.seqOp = .querySample ∨ s.seqOp = .tickPoll) ∧ s.cmdIdx = 1 →
    exec (.ack v) s = .next t → exec (.ack w) s = .next u → { t with rx := 0 } = { u with rx := 0 }

/-- WRITE_RAM whole: eight byte frames, any acknowledgments, and the end state; cache, sampler and dispatcher unchanged
(spec/30_encoding.md R102; spec/41_device_controller.md R174, R175). -/
def Obligations.WriteRamSequence : Prop :=
  ∀ (s : State) (loc val a0 a1 a2 a3 : Byte), Ready s →
    exec (.seqWriteRam loc val a0 a1 a2 a3) s = .next { s with
      hostClock := .low, hostData := .rel, busy := false, seqOp := .idle, seqPc := .idle, bitCnt := 7, cmdIdx := 7,
      tx := val, par := oddParity val, rx := a3, argLoc := loc, argVal := val, rspValid := true,
      dlyReq := false, dlyLen := s.cfg.tGuard, dlyDone := false,
      devClock := .rel, devData := .rel, devFrame := latchedCells val }

/-- ENABLE_STREAMING whole: four byte frames, then both lines released and STREAMING with the sampler clear
(spec/30_encoding.md R103; spec/41_device_controller.md R178, R180). -/
def Obligations.EnableStreamingSequence : Prop :=
  ∀ (s : State) (a0 a1 : Byte), Ready s → s.cfg.variant = .streaming →
    exec (.seqEnableStreaming a0 a1) s = .next { s with
      hostClock := .rel, hostData := .rel, mode := .streaming, edgePending := false, byteIdx := 0, bitIdx := 0,
      acc := ⟨0, 0, 0⟩, busy := false, seqOp := .idle, seqPc := .idle, bitCnt := 7, cmdIdx := 4,
      tx := s.cfg.cmdEnableReporting, par := oddParity s.cfg.cmdEnableReporting, rx := a1, rspValid := true,
      dlyReq := false, dlyLen := s.cfg.tGuard, dlyDone := false,
      devClock := .rel, devData := .rel, devFrame := latchedCells s.cfg.cmdEnableReporting }

/-- QUERY whole: five byte frames, and the triple in `q`; `sample` and `data_available` untouched
(spec/30_encoding.md R104; spec/41_device_controller.md R183). -/
def Obligations.QuerySequence : Prop :=
  ∀ (s : State) (a0 st x y : Byte), Ready s → s.cfg.variant = .polling →
    exec (.seqQuery a0 st x y) s = .next { s with
      hostClock := .low, hostData := .rel, busy := false, seqOp := .idle, seqPc := .idle, bitCnt := 7, cmdIdx := 4,
      tx := s.cfg.cmdReadData, par := oddParity s.cfg.cmdReadData, rx := y, q := ⟨st, x, y⟩, rspValid := true,
      dlyReq := false, dlyLen := s.cfg.tGuard, dlyDone := false,
      devClock := .rel, devData := .rel, devFrame := latchedCells s.cfg.cmdReadData }

/-- A sequence row is its operation and its frames, one after another, in the order of its wire image;
`set_sensitivity_factor(v)` is `write_ram(SENS_ADDR, v)`
(spec/30_encoding.md R102 to R104; spec/41_device_controller.md R174, R177, R178, R183). The rows run in lockstep
(log 16), and an H2D or CMD_* row carries the frame of the operation in progress (log 22). -/
def Obligations.SequencesAreTheirFrames : Prop :=
  ∀ (s : State) (l v a0 a1 a2 a3 x y z : Byte), Ready s →
    (∃ t, exec (.seqWriteRam l v a0 a1 a2 a3) s = .next t ∧
      runInstrs [.writeRam l v, .cmdRamSelect, .ack a0, .cmdRamSet, .ack a1, .h2d l, .ack a2, .h2d v, .ack a3] s =
        some t) ∧
    (∃ t, exec (.seqWriteRam s.cfg.sensAddr v a0 a1 a2 a3) s = .next t ∧
      runInstrs [.setSensitivityFactor v, .cmdRamSelect, .ack a0, .cmdRamSet, .ack a1, .h2d s.cfg.sensAddr, .ack a2,
        .h2d v, .ack a3] s = some t) ∧
    (s.cfg.variant = .streaming → ∃ t, exec (.seqEnableStreaming a0 a1) s = .next t ∧
      runInstrs [.enableStreaming, .cmdSetStreamMode, .ack a0, .cmdEnableReporting, .ack a1] s = some t) ∧
    (s.cfg.variant = .polling → ∃ t, exec (.seqQuery a0 x y z) s = .next t ∧
      runInstrs [.querySample, .cmdReadData, .ack a0, .d2h (conformingFrame x), .d2h (conformingFrame y),
        .d2h (conformingFrame z)] s = some t)

/-- Start-up of the streaming variant from the reset state of any build, with a device that answers anything: the calls
are `reset`, `set_sensitivity_factor` and `enable_streaming`, and they leave a sampler aligned at the first cell of a
movement frame, with nothing published (spec/41_device_controller.md R186; spec/20_memory.md R77). The rows run in
lockstep (log 16), and that the sink would answer ACCEPTED is the model's reset value (log 19). -/
def Obligations.StartUpReachesStreaming : Prop :=
  ∀ (c : Config) (a0 a1 a2 a3 b0 b1 : Byte), c.variant = .streaming →
    startupCalls c true = [.reset, .setSensitivityFactor c.sensValue, .enableStreaming] ∧
    startupCalls c false = [.setSensitivityFactor c.sensValue, .enableStreaming] ∧
    ∃ t, runInstrs [.resetPulse, .seqWriteRam c.sensAddr c.sensValue a0 a1 a2 a3, .seqEnableStreaming b0 b1]
        (State.resetOf c) = some t ∧
      Sampling t ∧ t.byteIdx = 0 ∧ t.bitIdx = 0 ∧ t.acc = ⟨0, 0, 0⟩ ∧ t.dataAvailable = false ∧
      t.rptResult = .accepted ∧ t.cfg = c

/-- Bit-order round trip: a device that echoes the eight bits it latched of `write_byte(v)`, LSB-first, as the next
`read_byte` yields `v` again, for every `v` (spec/40_protocol_engine.md R153; the two frames run in lockstep, log 16,
log 22, and the echo reads the model's record of the latched cells, log 18). -/
def Obligations.EchoRoundTrip : Prop :=
  ∀ (s : State) (v : Byte), Ready s → ∃ t u,
    runInstrs [.writeByte v, .h2d v] s = some t ∧
    runInstrs [.readByte, .d2h (conformingFrame (byteOfBits t.devFrame))] t = some u ∧
    u.rx = v ∧ u.rspValid = true

/-- The source's end-to-end scenario, for every movement frame and with the scenario's own values: a frame in STREAMING,
then a tick, offers exactly the frame's report and leaves the flag clear (spec/43_report_dispatch.md R239, which gives one
frame; the frame runs in lockstep, log 16). -/
def Obligations.EndToEndStreaming : Prop :=
  ∀ (s : State) (a b c : D2hFrame), Sampling s → s.byteIdx = 0 → s.bitIdx = 0 → s.acc = ⟨0, 0, 0⟩ →
    s.cfg.variant = .streaming → s.rptResult ≠ .invalid →
    ∃ t u, exec (.mov a b c) s = .next t ∧ t.sample = ⟨a.byte, b.byte, c.byte⟩ ∧ t.dataAvailable = true ∧
      takeInput .tick t = .next u ∧ u.dataAvailable = false ∧ u.rptValid = true ∧
      u.report = formatReport s.cfg ⟨a.byte, b.byte, c.byte⟩ ∧
      (a.byte = 0x01 → b.byte = 0x05 → c.byte = 0xFB → u.report = ⟨5, 5, 1, 0, 0⟩)

/-- One whole period of the polling variant: the tick, the read-data frame, the acknowledgment and the three bytes, and
exactly one report, whatever the sink answers short of INVALID (spec/43_report_dispatch.md R240, R242; the rows run in
lockstep, log 16, log 22). -/
def Obligations.TickPollPeriod : Prop :=
  ∀ (s : State) (a0 st x y : Byte), Ready s → s.cfg.variant = .polling → s.dispState = .idle →
    s.rptResult ≠ .invalid →
    runInstrs [.tickPoll, .cmdReadData, .ack a0, .d2h (conformingFrame st), .d2h (conformingFrame x),
        .d2h (conformingFrame y)] s = some { s with
      hostClock := .low, hostData := .rel, busy := false, seqOp := .idle, seqPc := .idle, bitCnt := 7, cmdIdx := 4,
      tx := s.cfg.cmdReadData, par := oddParity s.cfg.cmdReadData, rx := y, q := ⟨st, x, y⟩,
      report := formatReport s.cfg ⟨st, x, y⟩, rptValid := true, dispState := .idle,
      dlyReq := false, dlyLen := s.cfg.tGuard, dlyDone := false,
      devClock := .rel, devData := .rel, devFrame := latchedCells s.cfg.cmdReadData }

/-- Every wire transaction is a run of the engine with some device: there is a list of single events (device drives,
sequencer turns, delay completions, `EDGE` steps and requests on the command port) that leads to the same state; only
the record of what the device latched is the transaction's own (spec/70_reset_and_hazards.md R330, R335; log 16). -/
def Obligations.WireRowsAreRuns : Prop :=
  ∀ (i : Instr) (s t : State), isPortRow i = false → (∀ p, i ≠ .rpt p) → exec i s = .next t →
    ∃ (l : List Input) (u : State), (∀ e ∈ l, isPrimitive s.cfg e = true) ∧ runInputs l s = some u ∧
      t = { u with devFrame := t.devFrame }

/-! ### Whole-machine rules -/

/-- The states of `Inv` are closed under every step, whatever is placed and whatever the device, the delay source and
the sink do. -/
def Obligations.StepKeepsInv : Prop :=
  ∀ s t : State, Inv s → step s = .next t → Inv t

/-- The reset state of every build is legal, and a free, legal sequencer in POLLING is ready. -/
def Obligations.ResetIsLegal : Prop :=
  Inv State.reset ∧ (∀ c : Config, Inv (State.resetOf c)) ∧
  ∀ s : State, Inv s → s.busy = false → s.aborted = false → s.mode = .polling → Ready s

/-- STREAMING is left by `hw_reset` only, and a single event enters it only at ES_FINAL
(spec/10_state.md R30, spec/60_exceptions.md R275). -/
def Obligations.RegimeChanges : Prop :=
  ∀ s t : State, step s = .next t →
    (s.mode = .streaming → t.mode = .polling → ∃ e rest, s.inputs = e :: rest ∧ rowOf s.cfg e = some .hwReset) ∧
    (s.mode = .polling → t.mode = .streaming → (∀ e rest, s.inputs = e :: rest → isPrimitive s.cfg e = true) →
      s.seqPc = .esFinal ∧ s.busy = true)

/-- "The Edge Sampler is its sole setter, Report Dispatch its sole clearer": of single events only an `EDGE` sets
`data_available`; only an `EDGE`, or `hw_reset`, writes `sample`; an `EDGE` does both at once, from the three accumulators;
and only a `TICK_STREAM`, or `hw_reset`, clears the flag (spec/10_state.md R42; spec/20_memory.md R63, R64). -/
def Obligations.CacheWriters : Prop :=
  ∀ (s t : State) (e : Input), isPrimitive s.cfg e = true → takeInput e s = .next t →
    (s.dataAvailable = false → t.dataAvailable = true →
      rowOf s.cfg e = some .edge ∧ t.sample = ⟨s.acc.b0, s.acc.b1, s.acc.b2⟩) ∧
    (t.sample ≠ s.sample →
      rowOf s.cfg e = some .hwReset ∨
        rowOf s.cfg e = some .edge ∧ t.sample = ⟨s.acc.b0, s.acc.b1, s.acc.b2⟩ ∧ t.dataAvailable = true) ∧
    (s.dataAvailable = true → t.dataAvailable = false →
      rowOf s.cfg e = some .tickStream ∨ rowOf s.cfg e = some .hwReset)

/-- The handshake of the shared sample cache, over any run of single events: where the flag comes to be set, some `EDGE`
of the run published, from its three accumulators at one instant, the very Sample the cache holds now
(spec/20_memory.md R63, R70). -/
def Obligations.CacheHandshake : Prop :=
  ∀ (s u : State) (l : List Input),
    (∀ e ∈ l, isPrimitive s.cfg e = true ∧ rowOf s.cfg e ≠ some .hwReset) → s.dataAvailable = false →
    runInputs l s = some u → u.dataAvailable = true →
    ∃ (before after : List Input) (e : Input) (v w : State),
      l = before ++ e :: after ∧ runInputs before s = some v ∧ rowOf s.cfg e = some .edge ∧
      takeInput e v = .next w ∧ v.byteIdx = 2 ∧ v.bitIdx = 10 ∧ runInputs after w = some u ∧
      w.sample = ⟨v.acc.b0, v.acc.b1, v.acc.b2⟩ ∧ u.sample = w.sample

/-- What each context may touch: a turn of the sequencer leaves the shared sample cache alone, ES_FINAL apart the sampler,
and P3 and P6 of a `TICK_POLL` apart the dispatcher, its report and `aborted`; `EDGE`, `FRAME_START` and a streaming
dispatch leave the Lines and the sequencer alone; `EDGE` and `FRAME_START` leave the dispatcher alone; and a streaming
dispatch leaves the sampler and the Sample alone (spec/60_exceptions.md R274; P3 with P4 and P5 is one step, log 14). -/
def Obligations.ContextsKeepApart : Prop :=
  (∀ s : State, (seqStep s).sample = s.sample ∧ (seqStep s).dataAvailable = s.dataAvailable ∧
    (s.seqPc ≠ .esFinal → (seqStep s).byteIdx = s.byteIdx ∧ (seqStep s).bitIdx = s.bitIdx ∧
      (seqStep s).acc = s.acc) ∧
    (s.mode = .polling → (seqStep s).edgePending = true → s.edgePending = true) ∧
    (s.seqPc ≠ .p3 → (seqStep s).report = s.report ∧ (seqStep s).rptValid = s.rptValid ∧
      (seqStep s).aborted = s.aborted) ∧
    (s.seqPc ≠ .p6 → (seqStep s).dispState = s.dispState)) ∧
  (∀ (s t : State) (i : Instr), i = .edge ∨ i = .frameStart ∨ i = .tickStream → exec i s = .next t →
    t.hostClock = s.hostClock ∧ t.hostData = s.hostData ∧ t.resetOut = s.resetOut ∧ t.mode = s.mode ∧
    t.busy = s.busy ∧ t.seqOp = s.seqOp ∧ t.seqPc = s.seqPc ∧ t.cmdIdx = s.cmdIdx ∧ t.bitCnt = s.bitCnt ∧
    t.tx = s.tx ∧ t.par = s.par ∧ t.rx = s.rx ∧ t.argLoc = s.argLoc ∧ t.argVal = s.argVal ∧ t.q = s.q ∧
    t.rspValid = s.rspValid ∧ t.dlyReq = s.dlyReq ∧ t.dlyLen = s.dlyLen ∧ t.dlyDone = s.dlyDone) ∧
  (∀ (s t : State) (i : Instr), i = .edge ∨ i = .frameStart → exec i s = .next t →
    t.dispState = s.dispState ∧ t.report = s.report ∧ t.rptValid = s.rptValid ∧ t.aborted = s.aborted) ∧
  ∀ s t : State, exec .tickStream s = .next t →
    t.edgePending = s.edgePending ∧ t.byteIdx = s.byteIdx ∧ t.bitIdx = s.bitIdx ∧ t.acc = s.acc ∧ t.sample = s.sample

/-- "the host never drives a Line in `mode = STREAMING`", against any device, in every state a run of any length from
the reset state of any build reaches (spec/70_reset_and_hazards.md R336). -/
def Obligations.StreamingLinesReleased : Prop :=
  ∀ (c : Config) (n : Nat) (l : List Input) (t : State),
    Host.Core.run Sys2Proof.core n ({ State.resetOf c with inputs := l } : State) = Host.Outcome.next t →
    t.mode = .streaming →
    t.hostClock = .rel ∧ t.hostData = .rel ∧ t.busy = false

/-- In POLLING, "clock edges outside a `read_byte` are not decoded at all" (spec/30_encoding.md R115), with an operation
in progress too: the device's drives move nothing else; no turn outside the program of a `read_byte` changes `rx`, `q`,
the cache or, ES_FINAL apart, the sampler, or sets `edge_pending`; and a frame, an acknowledgment or a movement frame that
falls into a `write_byte` or a `reset()` leaves all of them as they were (those three are the lockstep rows, log 16,
log 17, log 21). -/
def Obligations.FramesOutsideReadUndecoded : Prop :=
  (∀ (s : State) (c d : Drive), s.mode = .polling →
    takeInput (.device c d) s = .next { s with devClock := c, devData := d }) ∧
  (∀ s : State, s.mode = .polling → labelPart s.seqPc ≠ .read →
    (seqStep s).rx = s.rx ∧ (seqStep s).q = s.q ∧ (seqStep s).sample = s.sample ∧
    (seqStep s).dataAvailable = s.dataAvailable ∧ ((seqStep s).edgePending = true → s.edgePending = true) ∧
    (s.seqPc ≠ .esFinal → (seqStep s).byteIdx = s.byteIdx ∧ (seqStep s).bitIdx = s.bitIdx ∧
      (seqStep s).acc = s.acc)) ∧
  ∀ (s : State) (i : Instr), s.mode = .polling →
    (s.seqOp = .writeByte ∧ labelPart s.seqPc = .write ∨ s.seqOp = .reset ∧ labelPart s.seqPc = .pulse) →
    ((∃ f, i = .d2h f) ∨ (∃ v, i = .ack v) ∨ ∃ f g h, i = .mov f g h) →
    ∃ t, exec i s = .next t ∧ t.mode = .polling ∧ t.rx = s.rx ∧ t.q = s.q ∧ t.sample = s.sample ∧
      t.dataAvailable = s.dataAvailable ∧ (t.edgePending = true → s.edgePending = true) ∧
      t.byteIdx = s.byteIdx ∧ t.bitIdx = s.bitIdx ∧ t.acc = s.acc
end

