-- ==== Sys2Proof/Laws/Encoding.lean ====
section
/-! SUPPORT. The cell strings of the wire formats and their bytes: what is cut into bytes is put together again, and no
bit is dropped. -/

namespace Sys2Proof

/-- The low `n` bits of two bytes of a string of at most sixteen cells are the string. -/
theorem cells_of_two_bytes {n : Nat} (c : BitVec n) (hn : n ≤ 16) :
    (cellByte c 1 ++ cellByte c 0 : BitVec 16).extractLsb' 0 n = c := by
  apply BitVec.eq_of_getLsbD_eq
  intro i hi
  simp only [cellByte, BitVec.getLsbD_extractLsb', BitVec.getLsbD_append, hi]
  by_cases h : i < 8
  · simp [h]
  · have h' : 8 + (i - 8) = i := by omega
    simp [h, h', show i - 8 < 8 by omega]

/-- The low `n` bits of five bytes of a string of at most forty cells are the string. -/
theorem cells_of_five_bytes {n : Nat} (c : BitVec n) (hn : n ≤ 40) :
    (cellByte c 4 ++ cellByte c 3 ++ cellByte c 2 ++ cellByte c 1 ++ cellByte c 0 : BitVec 40).extractLsb' 0 n = c := by
  apply BitVec.eq_of_getLsbD_eq
  intro i hi
  simp only [cellByte, BitVec.getLsbD_extractLsb', BitVec.getLsbD_append, hi, Nat.zero_add]
  by_cases h0 : i < 8
  · simp [h0]
  by_cases h1 : i < 16
  · have h' : 8 + (i - 8) = i := by omega
    simp [h0, h', show i - 8 < 8 by omega]
  by_cases h2 : i < 24
  · have h' : 16 + (i - 8 - 8) = i := by omega
    simp [h0, h', show ¬ i - 8 < 8 by omega, show i - 8 - 8 < 8 by omega]
  by_cases h3 : i < 32
  · have h' : 24 + (i - 8 - 8 - 8) = i := by omega
    simp [h0, h', show ¬ i - 8 < 8 by omega, show ¬ i - 8 - 8 < 8 by omega, show i - 8 - 8 - 8 < 8 by omega]
  · have h' : 32 + (i - 8 - 8 - 8 - 8) = i := by omega
    simp [h0, h', show ¬ i - 8 < 8 by omega, show ¬ i - 8 - 8 < 8 by omega, show ¬ i - 8 - 8 - 8 < 8 by omega,
      show i - 8 - 8 - 8 - 8 < 8 by omega]

/-- Above the last cell a byte of the string is 0. -/
theorem cellByte_padding {n k : Nat} (c : BitVec n) (j m : Nat) (h : n ≤ 8 * k + j) :
    (cellByte c k).extractLsb' j m = 0 := by
  apply BitVec.eq_of_getLsbD_eq
  intro i hi
  simp only [cellByte, BitVec.getLsbD_extractLsb', hi, decide_true, Bool.true_and, BitVec.ofNat_eq_ofNat,
    BitVec.getLsbD_zero, Bool.and_eq_false_imp]
  intro _
  exact BitVec.getLsbD_of_ge c _ (by omega)

/-- The cells of a D2H frame are the frame (R95, R96). -/
theorem d2hOfCells_d2hCells (f : D2hFrame) : d2hOfCells (d2hCells f) = f := by
  obtain ⟨a, b, c, d⟩ := f
  simp only [d2hOfCells, d2hCells, D2hFrame.mk.injEq]
  refine ⟨?_, ?_, ?_, ?_⟩ <;> revert a b c d <;> decide

/-- A frame is its cells. -/
theorem d2hCells_d2hOfCells (c : BitVec 11) : d2hCells (d2hOfCells c) = c := by
  revert c
  decide

/-- The two bytes of an H2D frame decode to its byte (R92, R93). -/
theorem decodeH2d_cells (v : Byte) :
    decodeH2d (cellByte (h2dCells v) 0) (cellByte (h2dCells v) 1) = .ok (.h2d v) := by
  have h : (h2dCells v).extractLsb' 1 8 = v := by revert v; decide
  have h1 : (cellByte (h2dCells v) 1 ++ cellByte (h2dCells v) 0 : BitVec 16).extractLsb' 1 8 = v := by revert v; decide
  simp only [decodeH2d, cellByte_padding (h2dCells v) 4 4 (k := 1) (by decide), h1,
    cells_of_two_bytes (h2dCells v) (by decide)]
  simp

/-- The two bytes of a D2H frame decode to the frame (R95). -/
theorem decodeD2h_cells (f : D2hFrame) :
    decodeD2h (cellByte (d2hCells f) 0) (cellByte (d2hCells f) 1) = .ok (.d2h f) := by
  simp only [decodeD2h, cellByte_padding (d2hCells f) 3 5 (k := 1) (by decide), cells_of_two_bytes (d2hCells f) (by decide),
    d2hOfCells_d2hCells]
  simp

/-- The eleven cells of frame `k` of a movement frame. -/
theorem movCells_parts (a b c : D2hFrame) :
    (movCells a b c).extractLsb' 0 11 = d2hCells a ∧ (movCells a b c).extractLsb' 11 11 = d2hCells b ∧
    (movCells a b c).extractLsb' 22 11 = d2hCells c := by
  simp only [movCells]
  generalize d2hCells a = x
  generalize d2hCells b = y
  generalize d2hCells c = z
  refine ⟨?_, ?_, ?_⟩ <;> apply BitVec.eq_of_getLsbD_eq <;> intro i hi <;>
    simp only [BitVec.getLsbD_extractLsb', BitVec.getLsbD_append, hi]
  · simp [hi]
  · have h' : 11 + i - 11 = i := by omega
    simp [h', hi]
  · have h' : 22 + i - 11 - 11 = i := by omega
    simp [h', show ¬ 22 + i < 11 by omega, show ¬ 22 + i - 11 < 11 by omega]

/-- The five bytes of a movement frame decode to its three frames (R98). -/
theorem decodeMov_cells (a b c : D2hFrame) :
    decodeMov (cellByte (movCells a b c) 0) (cellByte (movCells a b c) 1) (cellByte (movCells a b c) 2)
      (cellByte (movCells a b c) 3) (cellByte (movCells a b c) 4) = .ok (.mov a b c) := by
  obtain ⟨h0, h1, h2⟩ := movCells_parts a b c
  have h := cells_of_five_bytes (movCells a b c) (by decide)
  have part : ∀ k, k + 11 ≤ 33 → (cellByte (movCells a b c) 4 ++ cellByte (movCells a b c) 3 ++ cellByte (movCells a b c) 2 ++
      cellByte (movCells a b c) 1 ++ cellByte (movCells a b c) 0 : BitVec 40).extractLsb' k 11 =
      (movCells a b c).extractLsb' k 11 := by
    intro k hk
    conv_rhs => rw [← h]
    apply BitVec.eq_of_getLsbD_eq
    intro i hi
    simp [hi, show k + i < 33 by omega]
  simp only [decodeMov, cellByte_padding (movCells a b c) 1 7 (k := 4) (by decide), part 0 (by decide),
    part 11 (by decide), part 22 (by decide), h0, h1, h2, d2hOfCells_d2hCells]
  simp

/-- Every select code is well-formed as an instruction (R110, R113). -/
theorem commandOf_wf (c : BitVec 4) (a b : Byte) : (commandOf c a b).wf = true := by
  unfold commandOf
  repeat' split
  all_goals first
    | rfl
    | simp only [Instr.wf, decide_eq_true_eq]
      bv_omega

/-- What the rows outside the command port decode to is well-formed, and no byte is invented. -/
theorem decodeTagged_ok {tag : Byte} {l rest : List Byte} {i : Instr} (h : decodeTagged tag l = .ok (i, rest)) :
    i.wf = true ∧ rest.length ≤ l.length := by
  unfold decodeTagged at h
  by_cases ht : tag = 0x10
  · rw [if_pos ht] at h
    obtain ⟨rfl, rfl⟩ := Prod.mk.inj (Except.ok.inj h)
    exact ⟨rfl, le_rfl⟩
  rw [if_neg ht] at h
  clear ht
  by_cases ht : tag = 0x11
  · rw [if_pos ht] at h
    obtain ⟨rfl, rfl⟩ := Prod.mk.inj (Except.ok.inj h)
    exact ⟨rfl, le_rfl⟩
  rw [if_neg ht] at h
  clear ht
  by_cases ht : tag = 0x12
  · rw [if_pos ht] at h
    obtain ⟨rfl, rfl⟩ := Prod.mk.inj (Except.ok.inj h)
    exact ⟨rfl, le_rfl⟩
  rw [if_neg ht] at h
  clear ht
  by_cases ht : tag = 0x13
  · rw [if_pos ht] at h
    obtain ⟨rfl, rfl⟩ := Prod.mk.inj (Except.ok.inj h)
    exact ⟨rfl, le_rfl⟩
  rw [if_neg ht] at h
  clear ht
  by_cases ht : tag = 0x14
  · rw [if_pos ht] at h
    obtain ⟨rfl, rfl⟩ := Prod.mk.inj (Except.ok.inj h)
    exact ⟨rfl, le_rfl⟩
  rw [if_neg ht] at h
  clear ht
  by_cases ht : tag = 0x20
  · rw [if_pos ht] at h
    split at h
    · simp only [decodeH2d] at h
      split at h
      · cases h
      · split at h
        · obtain ⟨rfl, rfl⟩ := Prod.mk.inj (Except.ok.inj h)
          refine ⟨rfl, ?_⟩
          simp only [List.length_cons]
          omega
        · cases h
    · cases h
  rw [if_neg ht] at h
  clear ht
  by_cases ht : tag = 0x21
  · rw [if_pos ht] at h
    split at h
    · simp only [decodeD2h] at h
      split at h
      · cases h
      · obtain ⟨rfl, rfl⟩ := Prod.mk.inj (Except.ok.inj h)
        refine ⟨rfl, ?_⟩
        simp only [List.length_cons]
        omega
    · cases h
  rw [if_neg ht] at h
  clear ht
  by_cases ht : tag = 0x22
  · rw [if_pos ht] at h
    split at h
    · simp only [decodeMov] at h
      split at h
      · cases h
      · obtain ⟨rfl, rfl⟩ := Prod.mk.inj (Except.ok.inj h)
        refine ⟨rfl, ?_⟩
        simp only [List.length_cons]
        omega
    · cases h
  rw [if_neg ht] at h
  clear ht
  by_cases ht : tag = 0x30
  · rw [if_pos ht] at h
    split at h
    · obtain ⟨rfl, rfl⟩ := Prod.mk.inj (Except.ok.inj h)
      refine ⟨rfl, ?_⟩
      simp only [List.length_cons]
      omega
    · cases h
  rw [if_neg ht] at h
  clear ht
  by_cases ht : tag = 0x31
  · rw [if_pos ht] at h
    split at h
    · obtain ⟨rfl, rfl⟩ := Prod.mk.inj (Except.ok.inj h)
      refine ⟨rfl, ?_⟩
      simp only [List.length_cons]
      omega
    · cases h
  rw [if_neg ht] at h
  clear ht
  by_cases ht : tag = 0x32
  · rw [if_pos ht] at h
    split at h
    · obtain ⟨rfl, rfl⟩ := Prod.mk.inj (Except.ok.inj h)
      refine ⟨rfl, ?_⟩
      simp only [List.length_cons]
      omega
    · cases h
  rw [if_neg ht] at h
  clear ht
  by_cases ht : tag = 0x40
  · rw [if_pos ht] at h
    obtain ⟨rfl, rfl⟩ := Prod.mk.inj (Except.ok.inj h)
    exact ⟨rfl, le_rfl⟩
  rw [if_neg ht] at h
  clear ht
  by_cases ht : tag = 0x41
  · rw [if_pos ht] at h
    split at h
    · obtain ⟨rfl, rfl⟩ := Prod.mk.inj (Except.ok.inj h)
      refine ⟨rfl, ?_⟩
      simp only [List.length_cons]
      omega
    · cases h
  rw [if_neg ht] at h
  clear ht
  by_cases ht : tag = 0xEB
  · rw [if_pos ht] at h
    obtain ⟨rfl, rfl⟩ := Prod.mk.inj (Except.ok.inj h)
    exact ⟨rfl, le_rfl⟩
  rw [if_neg ht] at h
  clear ht
  by_cases ht : tag = 0xE2
  · rw [if_pos ht] at h
    obtain ⟨rfl, rfl⟩ := Prod.mk.inj (Except.ok.inj h)
    exact ⟨rfl, le_rfl⟩
  rw [if_neg ht] at h
  clear ht
  by_cases ht : tag = 0x81
  · rw [if_pos ht] at h
    obtain ⟨rfl, rfl⟩ := Prod.mk.inj (Except.ok.inj h)
    exact ⟨rfl, le_rfl⟩
  rw [if_neg ht] at h
  clear ht
  by_cases ht : tag = 0xEA
  · rw [if_pos ht] at h
    obtain ⟨rfl, rfl⟩ := Prod.mk.inj (Except.ok.inj h)
    exact ⟨rfl, le_rfl⟩
  rw [if_neg ht] at h
  clear ht
  by_cases ht : tag = 0xF4
  · rw [if_pos ht] at h
    obtain ⟨rfl, rfl⟩ := Prod.mk.inj (Except.ok.inj h)
    exact ⟨rfl, le_rfl⟩
  rw [if_neg ht] at h
  clear ht
  by_cases ht : tag = 0xFA
  · rw [if_pos ht] at h
    split at h
    · obtain ⟨rfl, rfl⟩ := Prod.mk.inj (Except.ok.inj h)
      refine ⟨rfl, ?_⟩
      simp only [List.length_cons]
      omega
    · cases h
  rw [if_neg ht] at h
  clear ht
  cases h

end Sys2Proof
end

