-- ==== Sys2Proof/Laws/State.lean ====
section
/-! SUPPORT. What each field is after each named update of the state, so that no proof unfolds a record update. -/

namespace Sys2Proof.Machine

section
variable (s : State)

/-! ### `goto` -/

@[simp] theorem goto_cfg (pc : Label) : (goto pc s).cfg = s.cfg := rfl
@[simp] theorem goto_hostClock (pc : Label) : (goto pc s).hostClock = s.hostClock := rfl
@[simp] theorem goto_hostData (pc : Label) : (goto pc s).hostData = s.hostData := rfl
@[simp] theorem goto_resetOut (pc : Label) : (goto pc s).resetOut = s.resetOut := rfl
@[simp] theorem goto_mode (pc : Label) : (goto pc s).mode = s.mode := rfl
@[simp] theorem goto_busy (pc : Label) : (goto pc s).busy = s.busy := rfl
@[simp] theorem goto_seqOp (pc : Label) : (goto pc s).seqOp = s.seqOp := rfl
@[simp] theorem goto_seqPc (pc : Label) : (goto pc s).seqPc = pc := rfl
@[simp] theorem goto_bitCnt (pc : Label) : (goto pc s).bitCnt = s.bitCnt := rfl
@[simp] theorem goto_cmdIdx (pc : Label) : (goto pc s).cmdIdx = s.cmdIdx := rfl
@[simp] theorem goto_tx (pc : Label) : (goto pc s).tx = s.tx := rfl
@[simp] theorem goto_par (pc : Label) : (goto pc s).par = s.par := rfl
@[simp] theorem goto_rx (pc : Label) : (goto pc s).rx = s.rx := rfl
@[simp] theorem goto_argLoc (pc : Label) : (goto pc s).argLoc = s.argLoc := rfl
@[simp] theorem goto_argVal (pc : Label) : (goto pc s).argVal = s.argVal := rfl
@[simp] theorem goto_q (pc : Label) : (goto pc s).q = s.q := rfl
@[simp] theorem goto_edgePending (pc : Label) : (goto pc s).edgePending = s.edgePending := rfl
@[simp] theorem goto_byteIdx (pc : Label) : (goto pc s).byteIdx = s.byteIdx := rfl
@[simp] theorem goto_bitIdx (pc : Label) : (goto pc s).bitIdx = s.bitIdx := rfl
@[simp] theorem goto_acc (pc : Label) : (goto pc s).acc = s.acc := rfl
@[simp] theorem goto_sample (pc : Label) : (goto pc s).sample = s.sample := rfl
@[simp] theorem goto_dataAvailable (pc : Label) : (goto pc s).dataAvailable = s.dataAvailable := rfl
@[simp] theorem goto_dispState (pc : Label) : (goto pc s).dispState = s.dispState := rfl
@[simp] theorem goto_report (pc : Label) : (goto pc s).report = s.report := rfl
@[simp] theorem goto_aborted (pc : Label) : (goto pc s).aborted = s.aborted := rfl
@[simp] theorem goto_rspValid (pc : Label) : (goto pc s).rspValid = s.rspValid := rfl
@[simp] theorem goto_rptValid (pc : Label) : (goto pc s).rptValid = s.rptValid := rfl
@[simp] theorem goto_dlyReq (pc : Label) : (goto pc s).dlyReq = s.dlyReq := rfl
@[simp] theorem goto_dlyLen (pc : Label) : (goto pc s).dlyLen = s.dlyLen := rfl
@[simp] theorem goto_dlyDone (pc : Label) : (goto pc s).dlyDone = s.dlyDone := rfl
@[simp] theorem goto_rptResult (pc : Label) : (goto pc s).rptResult = s.rptResult := rfl
@[simp] theorem goto_devClock (pc : Label) : (goto pc s).devClock = s.devClock := rfl
@[simp] theorem goto_devData (pc : Label) : (goto pc s).devData = s.devData := rfl
@[simp] theorem goto_devFrame (pc : Label) : (goto pc s).devFrame = s.devFrame := rfl
@[simp] theorem goto_inputs (pc : Label) : (goto pc s).inputs = s.inputs := rfl
@[simp] theorem goto_freeCtr (pc : Label) : (goto pc s).freeCtr = s.freeCtr := rfl

/-! ### `requestDelay` -/

@[simp] theorem requestDelay_cfg (n : Micros) : (requestDelay n s).cfg = s.cfg := rfl
@[simp] theorem requestDelay_hostClock (n : Micros) : (requestDelay n s).hostClock = s.hostClock := rfl
@[simp] theorem requestDelay_hostData (n : Micros) : (requestDelay n s).hostData = s.hostData := rfl
@[simp] theorem requestDelay_resetOut (n : Micros) : (requestDelay n s).resetOut = s.resetOut := rfl
@[simp] theorem requestDelay_mode (n : Micros) : (requestDelay n s).mode = s.mode := rfl
@[simp] theorem requestDelay_busy (n : Micros) : (requestDelay n s).busy = s.busy := rfl
@[simp] theorem requestDelay_seqOp (n : Micros) : (requestDelay n s).seqOp = s.seqOp := rfl
@[simp] theorem requestDelay_seqPc (n : Micros) : (requestDelay n s).seqPc = s.seqPc := rfl
@[simp] theorem requestDelay_bitCnt (n : Micros) : (requestDelay n s).bitCnt = s.bitCnt := rfl
@[simp] theorem requestDelay_cmdIdx (n : Micros) : (requestDelay n s).cmdIdx = s.cmdIdx := rfl
@[simp] theorem requestDelay_tx (n : Micros) : (requestDelay n s).tx = s.tx := rfl
@[simp] theorem requestDelay_par (n : Micros) : (requestDelay n s).par = s.par := rfl
@[simp] theorem requestDelay_rx (n : Micros) : (requestDelay n s).rx = s.rx := rfl
@[simp] theorem requestDelay_argLoc (n : Micros) : (requestDelay n s).argLoc = s.argLoc := rfl
@[simp] theorem requestDelay_argVal (n : Micros) : (requestDelay n s).argVal = s.argVal := rfl
@[simp] theorem requestDelay_q (n : Micros) : (requestDelay n s).q = s.q := rfl
@[simp] theorem requestDelay_edgePending (n : Micros) : (requestDelay n s).edgePending = s.edgePending := rfl
@[simp] theorem requestDelay_byteIdx (n : Micros) : (requestDelay n s).byteIdx = s.byteIdx := rfl
@[simp] theorem requestDelay_bitIdx (n : Micros) : (requestDelay n s).bitIdx = s.bitIdx := rfl
@[simp] theorem requestDelay_acc (n : Micros) : (requestDelay n s).acc = s.acc := rfl
@[simp] theorem requestDelay_sample (n : Micros) : (requestDelay n s).sample = s.sample := rfl
@[simp] theorem requestDelay_dataAvailable (n : Micros) : (requestDelay n s).dataAvailable = s.dataAvailable := rfl
@[simp] theorem requestDelay_dispState (n : Micros) : (requestDelay n s).dispState = s.dispState := rfl
@[simp] theorem requestDelay_report (n : Micros) : (requestDelay n s).report = s.report := rfl
@[simp] theorem requestDelay_aborted (n : Micros) : (requestDelay n s).aborted = s.aborted := rfl
@[simp] theorem requestDelay_rspValid (n : Micros) : (requestDelay n s).rspValid = s.rspValid := rfl
@[simp] theorem requestDelay_rptValid (n : Micros) : (requestDelay n s).rptValid = s.rptValid := rfl
@[simp] theorem requestDelay_dlyReq (n : Micros) : (requestDelay n s).dlyReq = true := rfl
@[simp] theorem requestDelay_dlyLen (n : Micros) : (requestDelay n s).dlyLen = n := rfl
@[simp] theorem requestDelay_dlyDone (n : Micros) : (requestDelay n s).dlyDone = false := rfl
@[simp] theorem requestDelay_rptResult (n : Micros) : (requestDelay n s).rptResult = s.rptResult := rfl
@[simp] theorem requestDelay_devClock (n : Micros) : (requestDelay n s).devClock = s.devClock := rfl
@[simp] theorem requestDelay_devData (n : Micros) : (requestDelay n s).devData = s.devData := rfl
@[simp] theorem requestDelay_devFrame (n : Micros) : (requestDelay n s).devFrame = s.devFrame := rfl
@[simp] theorem requestDelay_inputs (n : Micros) : (requestDelay n s).inputs = s.inputs := rfl
@[simp] theorem requestDelay_freeCtr (n : Micros) : (requestDelay n s).freeCtr = s.freeCtr := rfl

/-! ### `endDelay` -/

@[simp] theorem endDelay_cfg : (endDelay s).cfg = s.cfg := rfl
@[simp] theorem endDelay_hostClock : (endDelay s).hostClock = s.hostClock := rfl
@[simp] theorem endDelay_hostData : (endDelay s).hostData = s.hostData := rfl
@[simp] theorem endDelay_resetOut : (endDelay s).resetOut = s.resetOut := rfl
@[simp] theorem endDelay_mode : (endDelay s).mode = s.mode := rfl
@[simp] theorem endDelay_busy : (endDelay s).busy = s.busy := rfl
@[simp] theorem endDelay_seqOp : (endDelay s).seqOp = s.seqOp := rfl
@[simp] theorem endDelay_seqPc : (endDelay s).seqPc = s.seqPc := rfl
@[simp] theorem endDelay_bitCnt : (endDelay s).bitCnt = s.bitCnt := rfl
@[simp] theorem endDelay_cmdIdx : (endDelay s).cmdIdx = s.cmdIdx := rfl
@[simp] theorem endDelay_tx : (endDelay s).tx = s.tx := rfl
@[simp] theorem endDelay_par : (endDelay s).par = s.par := rfl
@[simp] theorem endDelay_rx : (endDelay s).rx = s.rx := rfl
@[simp] theorem endDelay_argLoc : (endDelay s).argLoc = s.argLoc := rfl
@[simp] theorem endDelay_argVal : (endDelay s).argVal = s.argVal := rfl
@[simp] theorem endDelay_q : (endDelay s).q = s.q := rfl
@[simp] theorem endDelay_edgePending : (endDelay s).edgePending = s.edgePending := rfl
@[simp] theorem endDelay_byteIdx : (endDelay s).byteIdx = s.byteIdx := rfl
@[simp] theorem endDelay_bitIdx : (endDelay s).bitIdx = s.bitIdx := rfl
@[simp] theorem endDelay_acc : (endDelay s).acc = s.acc := rfl
@[simp] theorem endDelay_sample : (endDelay s).sample = s.sample := rfl
@[simp] theorem endDelay_dataAvailable : (endDelay s).dataAvailable = s.dataAvailable := rfl
@[simp] theorem endDelay_dispState : (endDelay s).dispState = s.dispState := rfl
@[simp] theorem endDelay_report : (endDelay s).report = s.report := rfl
@[simp] theorem endDelay_aborted : (endDelay s).aborted = s.aborted := rfl
@[simp] theorem endDelay_rspValid : (endDelay s).rspValid = s.rspValid := rfl
@[simp] theorem endDelay_rptValid : (endDelay s).rptValid = s.rptValid := rfl
@[simp] theorem endDelay_dlyReq : (endDelay s).dlyReq = false := rfl
@[simp] theorem endDelay_dlyLen : (endDelay s).dlyLen = s.dlyLen := rfl
@[simp] theorem endDelay_dlyDone : (endDelay s).dlyDone = false := rfl
@[simp] theorem endDelay_rptResult : (endDelay s).rptResult = s.rptResult := rfl
@[simp] theorem endDelay_devClock : (endDelay s).devClock = s.devClock := rfl
@[simp] theorem endDelay_devData : (endDelay s).devData = s.devData := rfl
@[simp] theorem endDelay_devFrame : (endDelay s).devFrame = s.devFrame := rfl
@[simp] theorem endDelay_inputs : (endDelay s).inputs = s.inputs := rfl
@[simp] theorem endDelay_freeCtr : (endDelay s).freeCtr = s.freeCtr := rfl

/-! ### `clearStrobes` -/

@[simp] theorem clearStrobes_cfg : (clearStrobes s).cfg = s.cfg := rfl
@[simp] theorem clearStrobes_hostClock : (clearStrobes s).hostClock = s.hostClock := rfl
@[simp] theorem clearStrobes_hostData : (clearStrobes s).hostData = s.hostData := rfl
@[simp] theorem clearStrobes_resetOut : (clearStrobes s).resetOut = s.resetOut := rfl
@[simp] theorem clearStrobes_mode : (clearStrobes s).mode = s.mode := rfl
@[simp] theorem clearStrobes_busy : (clearStrobes s).busy = s.busy := rfl
@[simp] theorem clearStrobes_seqOp : (clearStrobes s).seqOp = s.seqOp := rfl
@[simp] theorem clearStrobes_seqPc : (clearStrobes s).seqPc = s.seqPc := rfl
@[simp] theorem clearStrobes_bitCnt : (clearStrobes s).bitCnt = s.bitCnt := rfl
@[simp] theorem clearStrobes_cmdIdx : (clearStrobes s).cmdIdx = s.cmdIdx := rfl
@[simp] theorem clearStrobes_tx : (clearStrobes s).tx = s.tx := rfl
@[simp] theorem clearStrobes_par : (clearStrobes s).par = s.par := rfl
@[simp] theorem clearStrobes_rx : (clearStrobes s).rx = s.rx := rfl
@[simp] theorem clearStrobes_argLoc : (clearStrobes s).argLoc = s.argLoc := rfl
@[simp] theorem clearStrobes_argVal : (clearStrobes s).argVal = s.argVal := rfl
@[simp] theorem clearStrobes_q : (clearStrobes s).q = s.q := rfl
@[simp] theorem clearStrobes_edgePending : (clearStrobes s).edgePending = s.edgePending := rfl
@[simp] theorem clearStrobes_byteIdx : (clearStrobes s).byteIdx = s.byteIdx := rfl
@[simp] theorem clearStrobes_bitIdx : (clearStrobes s).bitIdx = s.bitIdx := rfl
@[simp] theorem clearStrobes_acc : (clearStrobes s).acc = s.acc := rfl
@[simp] theorem clearStrobes_sample : (clearStrobes s).sample = s.sample := rfl
@[simp] theorem clearStrobes_dataAvailable : (clearStrobes s).dataAvailable = s.dataAvailable := rfl
@[simp] theorem clearStrobes_dispState : (clearStrobes s).dispState = s.dispState := rfl
@[simp] theorem clearStrobes_report : (clearStrobes s).report = s.report := rfl
@[simp] theorem clearStrobes_aborted : (clearStrobes s).aborted = s.aborted := rfl
@[simp] theorem clearStrobes_rspValid : (clearStrobes s).rspValid = false := rfl
@[simp] theorem clearStrobes_rptValid : (clearStrobes s).rptValid = false := rfl
@[simp] theorem clearStrobes_dlyReq : (clearStrobes s).dlyReq = s.dlyReq := rfl
@[simp] theorem clearStrobes_dlyLen : (clearStrobes s).dlyLen = s.dlyLen := rfl
@[simp] theorem clearStrobes_dlyDone : (clearStrobes s).dlyDone = s.dlyDone := rfl
@[simp] theorem clearStrobes_rptResult : (clearStrobes s).rptResult = s.rptResult := rfl
@[simp] theorem clearStrobes_devClock : (clearStrobes s).devClock = s.devClock := rfl
@[simp] theorem clearStrobes_devData : (clearStrobes s).devData = s.devData := rfl
@[simp] theorem clearStrobes_devFrame : (clearStrobes s).devFrame = s.devFrame := rfl
@[simp] theorem clearStrobes_inputs : (clearStrobes s).inputs = s.inputs := rfl
@[simp] theorem clearStrobes_freeCtr : (clearStrobes s).freeCtr = s.freeCtr := rfl

/-! ### `afterFetch` -/

@[simp] theorem afterFetch_cfg (rest : List Input) : (afterFetch rest s).cfg = s.cfg := rfl
@[simp] theorem afterFetch_hostClock (rest : List Input) : (afterFetch rest s).hostClock = s.hostClock := rfl
@[simp] theorem afterFetch_hostData (rest : List Input) : (afterFetch rest s).hostData = s.hostData := rfl
@[simp] theorem afterFetch_resetOut (rest : List Input) : (afterFetch rest s).resetOut = s.resetOut := rfl
@[simp] theorem afterFetch_mode (rest : List Input) : (afterFetch rest s).mode = s.mode := rfl
@[simp] theorem afterFetch_busy (rest : List Input) : (afterFetch rest s).busy = s.busy := rfl
@[simp] theorem afterFetch_seqOp (rest : List Input) : (afterFetch rest s).seqOp = s.seqOp := rfl
@[simp] theorem afterFetch_seqPc (rest : List Input) : (afterFetch rest s).seqPc = s.seqPc := rfl
@[simp] theorem afterFetch_bitCnt (rest : List Input) : (afterFetch rest s).bitCnt = s.bitCnt := rfl
@[simp] theorem afterFetch_cmdIdx (rest : List Input) : (afterFetch rest s).cmdIdx = s.cmdIdx := rfl
@[simp] theorem afterFetch_tx (rest : List Input) : (afterFetch rest s).tx = s.tx := rfl
@[simp] theorem afterFetch_par (rest : List Input) : (afterFetch rest s).par = s.par := rfl
@[simp] theorem afterFetch_rx (rest : List Input) : (afterFetch rest s).rx = s.rx := rfl
@[simp] theorem afterFetch_argLoc (rest : List Input) : (afterFetch rest s).argLoc = s.argLoc := rfl
@[simp] theorem afterFetch_argVal (rest : List Input) : (afterFetch rest s).argVal = s.argVal := rfl
@[simp] theorem afterFetch_q (rest : List Input) : (afterFetch rest s).q = s.q := rfl
@[simp] theorem afterFetch_edgePending (rest : List Input) : (afterFetch rest s).edgePending = s.edgePending := rfl
@[simp] theorem afterFetch_byteIdx (rest : List Input) : (afterFetch rest s).byteIdx = s.byteIdx := rfl
@[simp] theorem afterFetch_bitIdx (rest : List Input) : (afterFetch rest s).bitIdx = s.bitIdx := rfl
@[simp] theorem afterFetch_acc (rest : List Input) : (afterFetch rest s).acc = s.acc := rfl
@[simp] theorem afterFetch_sample (rest : List Input) : (afterFetch rest s).sample = s.sample := rfl
@[simp] theorem afterFetch_dataAvailable (rest : List Input) : (afterFetch rest s).dataAvailable = s.dataAvailable := rfl
@[simp] theorem afterFetch_dispState (rest : List Input) : (afterFetch rest s).dispState = s.dispState := rfl
@[simp] theorem afterFetch_report (rest : List Input) : (afterFetch rest s).report = s.report := rfl
@[simp] theorem afterFetch_aborted (rest : List Input) : (afterFetch rest s).aborted = s.aborted := rfl
@[simp] theorem afterFetch_rspValid (rest : List Input) : (afterFetch rest s).rspValid = false := rfl
@[simp] theorem afterFetch_rptValid (rest : List Input) : (afterFetch rest s).rptValid = false := rfl
@[simp] theorem afterFetch_dlyReq (rest : List Input) : (afterFetch rest s).dlyReq = s.dlyReq := rfl
@[simp] theorem afterFetch_dlyLen (rest : List Input) : (afterFetch rest s).dlyLen = s.dlyLen := rfl
@[simp] theorem afterFetch_dlyDone (rest : List Input) : (afterFetch rest s).dlyDone = s.dlyDone := rfl
@[simp] theorem afterFetch_rptResult (rest : List Input) : (afterFetch rest s).rptResult = s.rptResult := rfl
@[simp] theorem afterFetch_devClock (rest : List Input) : (afterFetch rest s).devClock = s.devClock := rfl
@[simp] theorem afterFetch_devData (rest : List Input) : (afterFetch rest s).devData = s.devData := rfl
@[simp] theorem afterFetch_devFrame (rest : List Input) : (afterFetch rest s).devFrame = s.devFrame := rfl
@[simp] theorem afterFetch_inputs (rest : List Input) : (afterFetch rest s).inputs = rest := rfl
@[simp] theorem afterFetch_freeCtr (rest : List Input) : (afterFetch rest s).freeCtr = s.freeCtr := rfl

/-! ### `place` -/

@[simp] theorem place_cfg (e : Input) : (place e s).cfg = s.cfg := rfl
@[simp] theorem place_hostClock (e : Input) : (place e s).hostClock = s.hostClock := rfl
@[simp] theorem place_hostData (e : Input) : (place e s).hostData = s.hostData := rfl
@[simp] theorem place_resetOut (e : Input) : (place e s).resetOut = s.resetOut := rfl
@[simp] theorem place_mode (e : Input) : (place e s).mode = s.mode := rfl
@[simp] theorem place_busy (e : Input) : (place e s).busy = s.busy := rfl
@[simp] theorem place_seqOp (e : Input) : (place e s).seqOp = s.seqOp := rfl
@[simp] theorem place_seqPc (e : Input) : (place e s).seqPc = s.seqPc := rfl
@[simp] theorem place_bitCnt (e : Input) : (place e s).bitCnt = s.bitCnt := rfl
@[simp] theorem place_cmdIdx (e : Input) : (place e s).cmdIdx = s.cmdIdx := rfl
@[simp] theorem place_tx (e : Input) : (place e s).tx = s.tx := rfl
@[simp] theorem place_par (e : Input) : (place e s).par = s.par := rfl
@[simp] theorem place_rx (e : Input) : (place e s).rx = s.rx := rfl
@[simp] theorem place_argLoc (e : Input) : (place e s).argLoc = s.argLoc := rfl
@[simp] theorem place_argVal (e : Input) : (place e s).argVal = s.argVal := rfl
@[simp] theorem place_q (e : Input) : (place e s).q = s.q := rfl
@[simp] theorem place_edgePending (e : Input) : (place e s).edgePending = s.edgePending := rfl
@[simp] theorem place_byteIdx (e : Input) : (place e s).byteIdx = s.byteIdx := rfl
@[simp] theorem place_bitIdx (e : Input) : (place e s).bitIdx = s.bitIdx := rfl
@[simp] theorem place_acc (e : Input) : (place e s).acc = s.acc := rfl
@[simp] theorem place_sample (e : Input) : (place e s).sample = s.sample := rfl
@[simp] theorem place_dataAvailable (e : Input) : (place e s).dataAvailable = s.dataAvailable := rfl
@[simp] theorem place_dispState (e : Input) : (place e s).dispState = s.dispState := rfl
@[simp] theorem place_report (e : Input) : (place e s).report = s.report := rfl
@[simp] theorem place_aborted (e : Input) : (place e s).aborted = s.aborted := rfl
@[simp] theorem place_rspValid (e : Input) : (place e s).rspValid = s.rspValid := rfl
@[simp] theorem place_rptValid (e : Input) : (place e s).rptValid = s.rptValid := rfl
@[simp] theorem place_dlyReq (e : Input) : (place e s).dlyReq = s.dlyReq := rfl
@[simp] theorem place_dlyLen (e : Input) : (place e s).dlyLen = s.dlyLen := rfl
@[simp] theorem place_dlyDone (e : Input) : (place e s).dlyDone = s.dlyDone := rfl
@[simp] theorem place_rptResult (e : Input) : (place e s).rptResult = s.rptResult := rfl
@[simp] theorem place_devClock (e : Input) : (place e s).devClock = s.devClock := rfl
@[simp] theorem place_devData (e : Input) : (place e s).devData = s.devData := rfl
@[simp] theorem place_devFrame (e : Input) : (place e s).devFrame = s.devFrame := rfl
@[simp] theorem place_inputs (e : Input) : (place e s).inputs = e :: s.inputs := rfl
@[simp] theorem place_freeCtr (e : Input) : (place e s).freeCtr = s.freeCtr := rfl

/-! ### `cachePublish` -/

@[simp] theorem cachePublish_cfg (p : Sample) : (cachePublish p s).cfg = s.cfg := rfl
@[simp] theorem cachePublish_hostClock (p : Sample) : (cachePublish p s).hostClock = s.hostClock := rfl
@[simp] theorem cachePublish_hostData (p : Sample) : (cachePublish p s).hostData = s.hostData := rfl
@[simp] theorem cachePublish_resetOut (p : Sample) : (cachePublish p s).resetOut = s.resetOut := rfl
@[simp] theorem cachePublish_mode (p : Sample) : (cachePublish p s).mode = s.mode := rfl
@[simp] theorem cachePublish_busy (p : Sample) : (cachePublish p s).busy = s.busy := rfl
@[simp] theorem cachePublish_seqOp (p : Sample) : (cachePublish p s).seqOp = s.seqOp := rfl
@[simp] theorem cachePublish_seqPc (p : Sample) : (cachePublish p s).seqPc = s.seqPc := rfl
@[simp] theorem cachePublish_bitCnt (p : Sample) : (cachePublish p s).bitCnt = s.bitCnt := rfl
@[simp] theorem cachePublish_cmdIdx (p : Sample) : (cachePublish p s).cmdIdx = s.cmdIdx := rfl
@[simp] theorem cachePublish_tx (p : Sample) : (cachePublish p s).tx = s.tx := rfl
@[simp] theorem cachePublish_par (p : Sample) : (cachePublish p s).par = s.par := rfl
@[simp] theorem cachePublish_rx (p : Sample) : (cachePublish p s).rx = s.rx := rfl
@[simp] theorem cachePublish_argLoc (p : Sample) : (cachePublish p s).argLoc = s.argLoc := rfl
@[simp] theorem cachePublish_argVal (p : Sample) : (cachePublish p s).argVal = s.argVal := rfl
@[simp] theorem cachePublish_q (p : Sample) : (cachePublish p s).q = s.q := rfl
@[simp] theorem cachePublish_edgePending (p : Sample) : (cachePublish p s).edgePending = s.edgePending := rfl
@[simp] theorem cachePublish_byteIdx (p : Sample) : (cachePublish p s).byteIdx = s.byteIdx := rfl
@[simp] theorem cachePublish_bitIdx (p : Sample) : (cachePublish p s).bitIdx = s.bitIdx := rfl
@[simp] theorem cachePublish_acc (p : Sample) : (cachePublish p s).acc = s.acc := rfl
@[simp] theorem cachePublish_sample (p : Sample) : (cachePublish p s).sample = p := rfl
@[simp] theorem cachePublish_dataAvailable (p : Sample) : (cachePublish p s).dataAvailable = true := rfl
@[simp] theorem cachePublish_dispState (p : Sample) : (cachePublish p s).dispState = s.dispState := rfl
@[simp] theorem cachePublish_report (p : Sample) : (cachePublish p s).report = s.report := rfl
@[simp] theorem cachePublish_aborted (p : Sample) : (cachePublish p s).aborted = s.aborted := rfl
@[simp] theorem cachePublish_rspValid (p : Sample) : (cachePublish p s).rspValid = s.rspValid := rfl
@[simp] theorem cachePublish_rptValid (p : Sample) : (cachePublish p s).rptValid = s.rptValid := rfl
@[simp] theorem cachePublish_dlyReq (p : Sample) : (cachePublish p s).dlyReq = s.dlyReq := rfl
@[simp] theorem cachePublish_dlyLen (p : Sample) : (cachePublish p s).dlyLen = s.dlyLen := rfl
@[simp] theorem cachePublish_dlyDone (p : Sample) : (cachePublish p s).dlyDone = s.dlyDone := rfl
@[simp] theorem cachePublish_rptResult (p : Sample) : (cachePublish p s).rptResult = s.rptResult := rfl
@[simp] theorem cachePublish_devClock (p : Sample) : (cachePublish p s).devClock = s.devClock := rfl
@[simp] theorem cachePublish_devData (p : Sample) : (cachePublish p s).devData = s.devData := rfl
@[simp] theorem cachePublish_devFrame (p : Sample) : (cachePublish p s).devFrame = s.devFrame := rfl
@[simp] theorem cachePublish_inputs (p : Sample) : (cachePublish p s).inputs = s.inputs := rfl
@[simp] theorem cachePublish_freeCtr (p : Sample) : (cachePublish p s).freeCtr = s.freeCtr := rfl

/-! ### `raiseAbort` -/

@[simp] theorem raiseAbort_cfg : (raiseAbort s).cfg = s.cfg := rfl
@[simp] theorem raiseAbort_hostClock : (raiseAbort s).hostClock = s.hostClock := rfl
@[simp] theorem raiseAbort_hostData : (raiseAbort s).hostData = s.hostData := rfl
@[simp] theorem raiseAbort_resetOut : (raiseAbort s).resetOut = s.resetOut := rfl
@[simp] theorem raiseAbort_mode : (raiseAbort s).mode = s.mode := rfl
@[simp] theorem raiseAbort_busy : (raiseAbort s).busy = s.busy := rfl
@[simp] theorem raiseAbort_seqOp : (raiseAbort s).seqOp = s.seqOp := rfl
@[simp] theorem raiseAbort_seqPc : (raiseAbort s).seqPc = s.seqPc := rfl
@[simp] theorem raiseAbort_bitCnt : (raiseAbort s).bitCnt = s.bitCnt := rfl
@[simp] theorem raiseAbort_cmdIdx : (raiseAbort s).cmdIdx = s.cmdIdx := rfl
@[simp] theorem raiseAbort_tx : (raiseAbort s).tx = s.tx := rfl
@[simp] theorem raiseAbort_par : (raiseAbort s).par = s.par := rfl
@[simp] theorem raiseAbort_rx : (raiseAbort s).rx = s.rx := rfl
@[simp] theorem raiseAbort_argLoc : (raiseAbort s).argLoc = s.argLoc := rfl
@[simp] theorem raiseAbort_argVal : (raiseAbort s).argVal = s.argVal := rfl
@[simp] theorem raiseAbort_q : (raiseAbort s).q = s.q := rfl
@[simp] theorem raiseAbort_edgePending : (raiseAbort s).edgePending = s.edgePending := rfl
@[simp] theorem raiseAbort_byteIdx : (raiseAbort s).byteIdx = s.byteIdx := rfl
@[simp] theorem raiseAbort_bitIdx : (raiseAbort s).bitIdx = s.bitIdx := rfl
@[simp] theorem raiseAbort_acc : (raiseAbort s).acc = s.acc := rfl
@[simp] theorem raiseAbort_sample : (raiseAbort s).sample = s.sample := rfl
@[simp] theorem raiseAbort_dataAvailable : (raiseAbort s).dataAvailable = s.dataAvailable := rfl
@[simp] theorem raiseAbort_dispState : (raiseAbort s).dispState = s.dispState := rfl
@[simp] theorem raiseAbort_report : (raiseAbort s).report = s.report := rfl
@[simp] theorem raiseAbort_aborted : (raiseAbort s).aborted = true := rfl
@[simp] theorem raiseAbort_rspValid : (raiseAbort s).rspValid = s.rspValid := rfl
@[simp] theorem raiseAbort_rptValid : (raiseAbort s).rptValid = s.rptValid := rfl
@[simp] theorem raiseAbort_dlyReq : (raiseAbort s).dlyReq = s.dlyReq := rfl
@[simp] theorem raiseAbort_dlyLen : (raiseAbort s).dlyLen = s.dlyLen := rfl
@[simp] theorem raiseAbort_dlyDone : (raiseAbort s).dlyDone = s.dlyDone := rfl
@[simp] theorem raiseAbort_rptResult : (raiseAbort s).rptResult = s.rptResult := rfl
@[simp] theorem raiseAbort_devClock : (raiseAbort s).devClock = s.devClock := rfl
@[simp] theorem raiseAbort_devData : (raiseAbort s).devData = s.devData := rfl
@[simp] theorem raiseAbort_devFrame : (raiseAbort s).devFrame = s.devFrame := rfl
@[simp] theorem raiseAbort_inputs : (raiseAbort s).inputs = s.inputs := rfl
@[simp] theorem raiseAbort_freeCtr : (raiseAbort s).freeCtr = s.freeCtr := rfl

/-! ### `setReport` -/

@[simp] theorem setReport_cfg (p : Sample) : (setReport p s).cfg = s.cfg := rfl
@[simp] theorem setReport_hostClock (p : Sample) : (setReport p s).hostClock = s.hostClock := rfl
@[simp] theorem setReport_hostData (p : Sample) : (setReport p s).hostData = s.hostData := rfl
@[simp] theorem setReport_resetOut (p : Sample) : (setReport p s).resetOut = s.resetOut := rfl
@[simp] theorem setReport_mode (p : Sample) : (setReport p s).mode = s.mode := rfl
@[simp] theorem setReport_busy (p : Sample) : (setReport p s).busy = s.busy := rfl
@[simp] theorem setReport_seqOp (p : Sample) : (setReport p s).seqOp = s.seqOp := rfl
@[simp] theorem setReport_seqPc (p : Sample) : (setReport p s).seqPc = s.seqPc := rfl
@[simp] theorem setReport_bitCnt (p : Sample) : (setReport p s).bitCnt = s.bitCnt := rfl
@[simp] theorem setReport_cmdIdx (p : Sample) : (setReport p s).cmdIdx = s.cmdIdx := rfl
@[simp] theorem setReport_tx (p : Sample) : (setReport p s).tx = s.tx := rfl
@[simp] theorem setReport_par (p : Sample) : (setReport p s).par = s.par := rfl
@[simp] theorem setReport_rx (p : Sample) : (setReport p s).rx = s.rx := rfl
@[simp] theorem setReport_argLoc (p : Sample) : (setReport p s).argLoc = s.argLoc := rfl
@[simp] theorem setReport_argVal (p : Sample) : (setReport p s).argVal = s.argVal := rfl
@[simp] theorem setReport_q (p : Sample) : (setReport p s).q = s.q := rfl
@[simp] theorem setReport_edgePending (p : Sample) : (setReport p s).edgePending = s.edgePending := rfl
@[simp] theorem setReport_byteIdx (p : Sample) : (setReport p s).byteIdx = s.byteIdx := rfl
@[simp] theorem setReport_bitIdx (p : Sample) : (setReport p s).bitIdx = s.bitIdx := rfl
@[simp] theorem setReport_acc (p : Sample) : (setReport p s).acc = s.acc := rfl
@[simp] theorem setReport_sample (p : Sample) : (setReport p s).sample = s.sample := rfl
@[simp] theorem setReport_dataAvailable (p : Sample) : (setReport p s).dataAvailable = s.dataAvailable := rfl
@[simp] theorem setReport_dispState (p : Sample) : (setReport p s).dispState = s.dispState := rfl
@[simp] theorem setReport_report (p : Sample) : (setReport p s).report = formatReport s.cfg p := rfl
@[simp] theorem setReport_aborted (p : Sample) : (setReport p s).aborted = s.aborted := rfl
@[simp] theorem setReport_rspValid (p : Sample) : (setReport p s).rspValid = s.rspValid := rfl
@[simp] theorem setReport_rptValid (p : Sample) : (setReport p s).rptValid = s.rptValid := rfl
@[simp] theorem setReport_dlyReq (p : Sample) : (setReport p s).dlyReq = s.dlyReq := rfl
@[simp] theorem setReport_dlyLen (p : Sample) : (setReport p s).dlyLen = s.dlyLen := rfl
@[simp] theorem setReport_dlyDone (p : Sample) : (setReport p s).dlyDone = s.dlyDone := rfl
@[simp] theorem setReport_rptResult (p : Sample) : (setReport p s).rptResult = s.rptResult := rfl
@[simp] theorem setReport_devClock (p : Sample) : (setReport p s).devClock = s.devClock := rfl
@[simp] theorem setReport_devData (p : Sample) : (setReport p s).devData = s.devData := rfl
@[simp] theorem setReport_devFrame (p : Sample) : (setReport p s).devFrame = s.devFrame := rfl
@[simp] theorem setReport_inputs (p : Sample) : (setReport p s).inputs = s.inputs := rfl
@[simp] theorem setReport_freeCtr (p : Sample) : (setReport p s).freeCtr = s.freeCtr := rfl

/-! ### `beginSequence` -/

@[simp] theorem beginSequence_cfg (op : SeqOp) : (beginSequence op s).cfg = s.cfg := rfl
@[simp] theorem beginSequence_hostClock (op : SeqOp) : (beginSequence op s).hostClock = s.hostClock := rfl
@[simp] theorem beginSequence_hostData (op : SeqOp) : (beginSequence op s).hostData = s.hostData := rfl
@[simp] theorem beginSequence_resetOut (op : SeqOp) : (beginSequence op s).resetOut = s.resetOut := rfl
@[simp] theorem beginSequence_mode (op : SeqOp) : (beginSequence op s).mode = s.mode := rfl
@[simp] theorem beginSequence_busy (op : SeqOp) : (beginSequence op s).busy = true := rfl
@[simp] theorem beginSequence_seqOp (op : SeqOp) : (beginSequence op s).seqOp = op := rfl
@[simp] theorem beginSequence_seqPc (op : SeqOp) : (beginSequence op s).seqPc = entryLabel op 0 := rfl
@[simp] theorem beginSequence_bitCnt (op : SeqOp) : (beginSequence op s).bitCnt = s.bitCnt := rfl
@[simp] theorem beginSequence_cmdIdx (op : SeqOp) : (beginSequence op s).cmdIdx = 0 := rfl
@[simp] theorem beginSequence_tx (op : SeqOp) : (beginSequence op s).tx = s.tx := rfl
@[simp] theorem beginSequence_par (op : SeqOp) : (beginSequence op s).par = s.par := rfl
@[simp] theorem beginSequence_rx (op : SeqOp) : (beginSequence op s).rx = s.rx := rfl
@[simp] theorem beginSequence_argLoc (op : SeqOp) : (beginSequence op s).argLoc = s.argLoc := rfl
@[simp] theorem beginSequence_argVal (op : SeqOp) : (beginSequence op s).argVal = s.argVal := rfl
@[simp] theorem beginSequence_q (op : SeqOp) : (beginSequence op s).q = s.q := rfl
@[simp] theorem beginSequence_edgePending (op : SeqOp) : (beginSequence op s).edgePending = s.edgePending := rfl
@[simp] theorem beginSequence_byteIdx (op : SeqOp) : (beginSequence op s).byteIdx = s.byteIdx := rfl
@[simp] theorem beginSequence_bitIdx (op : SeqOp) : (beginSequence op s).bitIdx = s.bitIdx := rfl
@[simp] theorem beginSequence_acc (op : SeqOp) : (beginSequence op s).acc = s.acc := rfl
@[simp] theorem beginSequence_sample (op : SeqOp) : (beginSequence op s).sample = s.sample := rfl
@[simp] theorem beginSequence_dataAvailable (op : SeqOp) : (beginSequence op s).dataAvailable = s.dataAvailable := rfl
@[simp] theorem beginSequence_dispState (op : SeqOp) : (beginSequence op s).dispState = s.dispState := rfl
@[simp] theorem beginSequence_report (op : SeqOp) : (beginSequence op s).report = s.report := rfl
@[simp] theorem beginSequence_aborted (op : SeqOp) : (beginSequence op s).aborted = s.aborted := rfl
@[simp] theorem beginSequence_rspValid (op : SeqOp) : (beginSequence op s).rspValid = s.rspValid := rfl
@[simp] theorem beginSequence_rptValid (op : SeqOp) : (beginSequence op s).rptValid = s.rptValid := rfl
@[simp] theorem beginSequence_dlyReq (op : SeqOp) : (beginSequence op s).dlyReq = s.dlyReq := rfl
@[simp] theorem beginSequence_dlyLen (op : SeqOp) : (beginSequence op s).dlyLen = s.dlyLen := rfl
@[simp] theorem beginSequence_dlyDone (op : SeqOp) : (beginSequence op s).dlyDone = s.dlyDone := rfl
@[simp] theorem beginSequence_rptResult (op : SeqOp) : (beginSequence op s).rptResult = s.rptResult := rfl
@[simp] theorem beginSequence_devClock (op : SeqOp) : (beginSequence op s).devClock = s.devClock := rfl
@[simp] theorem beginSequence_devData (op : SeqOp) : (beginSequence op s).devData = s.devData := rfl
@[simp] theorem beginSequence_devFrame (op : SeqOp) : (beginSequence op s).devFrame = s.devFrame := rfl
@[simp] theorem beginSequence_inputs (op : SeqOp) : (beginSequence op s).inputs = s.inputs := rfl
@[simp] theorem beginSequence_freeCtr (op : SeqOp) : (beginSequence op s).freeCtr = s.freeCtr := rfl

/-! ### `completeCall` -/

@[simp] theorem completeCall_cfg : (completeCall s).cfg = s.cfg := rfl
@[simp] theorem completeCall_hostClock : (completeCall s).hostClock = s.hostClock := rfl
@[simp] theorem completeCall_hostData : (completeCall s).hostData = s.hostData := rfl
@[simp] theorem completeCall_resetOut : (completeCall s).resetOut = s.resetOut := rfl
@[simp] theorem completeCall_mode : (completeCall s).mode = s.mode := rfl
@[simp] theorem completeCall_busy : (completeCall s).busy = false := rfl
@[simp] theorem completeCall_seqOp : (completeCall s).seqOp = .idle := rfl
@[simp] theorem completeCall_seqPc : (completeCall s).seqPc = .idle := rfl
@[simp] theorem completeCall_bitCnt : (completeCall s).bitCnt = s.bitCnt := rfl
@[simp] theorem completeCall_cmdIdx : (completeCall s).cmdIdx = s.cmdIdx := rfl
@[simp] theorem completeCall_tx : (completeCall s).tx = s.tx := rfl
@[simp] theorem completeCall_par : (completeCall s).par = s.par := rfl
@[simp] theorem completeCall_rx : (completeCall s).rx = s.rx := rfl
@[simp] theorem completeCall_argLoc : (completeCall s).argLoc = s.argLoc := rfl
@[simp] theorem completeCall_argVal : (completeCall s).argVal = s.argVal := rfl
@[simp] theorem completeCall_q : (completeCall s).q = s.q := rfl
@[simp] theorem completeCall_edgePending : (completeCall s).edgePending = s.edgePending := rfl
@[simp] theorem completeCall_byteIdx : (completeCall s).byteIdx = s.byteIdx := rfl
@[simp] theorem completeCall_bitIdx : (completeCall s).bitIdx = s.bitIdx := rfl
@[simp] theorem completeCall_acc : (completeCall s).acc = s.acc := rfl
@[simp] theorem completeCall_sample : (completeCall s).sample = s.sample := rfl
@[simp] theorem completeCall_dataAvailable : (completeCall s).dataAvailable = s.dataAvailable := rfl
@[simp] theorem completeCall_dispState : (completeCall s).dispState = s.dispState := rfl
@[simp] theorem completeCall_report : (completeCall s).report = s.report := rfl
@[simp] theorem completeCall_aborted : (completeCall s).aborted = s.aborted := rfl
@[simp] theorem completeCall_rspValid : (completeCall s).rspValid = true := rfl
@[simp] theorem completeCall_rptValid : (completeCall s).rptValid = s.rptValid := rfl
@[simp] theorem completeCall_dlyReq : (completeCall s).dlyReq = s.dlyReq := rfl
@[simp] theorem completeCall_dlyLen : (completeCall s).dlyLen = s.dlyLen := rfl
@[simp] theorem completeCall_dlyDone : (completeCall s).dlyDone = s.dlyDone := rfl
@[simp] theorem completeCall_rptResult : (completeCall s).rptResult = s.rptResult := rfl
@[simp] theorem completeCall_devClock : (completeCall s).devClock = s.devClock := rfl
@[simp] theorem completeCall_devData : (completeCall s).devData = s.devData := rfl
@[simp] theorem completeCall_devFrame : (completeCall s).devFrame = s.devFrame := rfl
@[simp] theorem completeCall_inputs : (completeCall s).inputs = s.inputs := rfl
@[simp] theorem completeCall_freeCtr : (completeCall s).freeCtr = s.freeCtr := rfl

/-! ### `clearFrame` -/

@[simp] theorem clearFrame_cfg : (clearFrame s).cfg = s.cfg := rfl
@[simp] theorem clearFrame_hostClock : (clearFrame s).hostClock = s.hostClock := rfl
@[simp] theorem clearFrame_hostData : (clearFrame s).hostData = s.hostData := rfl
@[simp] theorem clearFrame_resetOut : (clearFrame s).resetOut = s.resetOut := rfl
@[simp] theorem clearFrame_mode : (clearFrame s).mode = s.mode := rfl
@[simp] theorem clearFrame_busy : (clearFrame s).busy = s.busy := rfl
@[simp] theorem clearFrame_seqOp : (clearFrame s).seqOp = s.seqOp := rfl
@[simp] theorem clearFrame_seqPc : (clearFrame s).seqPc = s.seqPc := rfl
@[simp] theorem clearFrame_bitCnt : (clearFrame s).bitCnt = s.bitCnt := rfl
@[simp] theorem clearFrame_cmdIdx : (clearFrame s).cmdIdx = s.cmdIdx := rfl
@[simp] theorem clearFrame_tx : (clearFrame s).tx = s.tx := rfl
@[simp] theorem clearFrame_par : (clearFrame s).par = s.par := rfl
@[simp] theorem clearFrame_rx : (clearFrame s).rx = s.rx := rfl
@[simp] theorem clearFrame_argLoc : (clearFrame s).argLoc = s.argLoc := rfl
@[simp] theorem clearFrame_argVal : (clearFrame s).argVal = s.argVal := rfl
@[simp] theorem clearFrame_q : (clearFrame s).q = s.q := rfl
@[simp] theorem clearFrame_edgePending : (clearFrame s).edgePending = s.edgePending := rfl
@[simp] theorem clearFrame_byteIdx : (clearFrame s).byteIdx = 0 := rfl
@[simp] theorem clearFrame_bitIdx : (clearFrame s).bitIdx = 0 := rfl
@[simp] theorem clearFrame_acc : (clearFrame s).acc = ⟨0, 0, 0⟩ := rfl
@[simp] theorem clearFrame_sample : (clearFrame s).sample = s.sample := rfl
@[simp] theorem clearFrame_dataAvailable : (clearFrame s).dataAvailable = s.dataAvailable := rfl
@[simp] theorem clearFrame_dispState : (clearFrame s).dispState = s.dispState := rfl
@[simp] theorem clearFrame_report : (clearFrame s).report = s.report := rfl
@[simp] theorem clearFrame_aborted : (clearFrame s).aborted = s.aborted := rfl
@[simp] theorem clearFrame_rspValid : (clearFrame s).rspValid = s.rspValid := rfl
@[simp] theorem clearFrame_rptValid : (clearFrame s).rptValid = s.rptValid := rfl
@[simp] theorem clearFrame_dlyReq : (clearFrame s).dlyReq = s.dlyReq := rfl
@[simp] theorem clearFrame_dlyLen : (clearFrame s).dlyLen = s.dlyLen := rfl
@[simp] theorem clearFrame_dlyDone : (clearFrame s).dlyDone = s.dlyDone := rfl
@[simp] theorem clearFrame_rptResult : (clearFrame s).rptResult = s.rptResult := rfl
@[simp] theorem clearFrame_devClock : (clearFrame s).devClock = s.devClock := rfl
@[simp] theorem clearFrame_devData : (clearFrame s).devData = s.devData := rfl
@[simp] theorem clearFrame_devFrame : (clearFrame s).devFrame = s.devFrame := rfl
@[simp] theorem clearFrame_inputs : (clearFrame s).inputs = s.inputs := rfl
@[simp] theorem clearFrame_freeCtr : (clearFrame s).freeCtr = s.freeCtr := rfl

end

section
variable (l : Line) (d : Drive) (before after : State)

/-! ### `detectEdge`, `setHost`, `setDevice`: only `edgePending` and the drives can change -/

@[simp] theorem detectEdge_cfg : (detectEdge before after).cfg = after.cfg := by
  unfold detectEdge; split <;> rfl
@[simp] theorem detectEdge_hostClock : (detectEdge before after).hostClock = after.hostClock := by
  unfold detectEdge; split <;> rfl
@[simp] theorem detectEdge_hostData : (detectEdge before after).hostData = after.hostData := by
  unfold detectEdge; split <;> rfl
@[simp] theorem detectEdge_resetOut : (detectEdge before after).resetOut = after.resetOut := by
  unfold detectEdge; split <;> rfl
@[simp] theorem detectEdge_mode : (detectEdge before after).mode = after.mode := by
  unfold detectEdge; split <;> rfl
@[simp] theorem detectEdge_busy : (detectEdge before after).busy = after.busy := by
  unfold detectEdge; split <;> rfl
@[simp] theorem detectEdge_seqOp : (detectEdge before after).seqOp = after.seqOp := by
  unfold detectEdge; split <;> rfl
@[simp] theorem detectEdge_seqPc : (detectEdge before after).seqPc = after.seqPc := by
  unfold detectEdge; split <;> rfl
@[simp] theorem detectEdge_bitCnt : (detectEdge before after).bitCnt = after.bitCnt := by
  unfold detectEdge; split <;> rfl
@[simp] theorem detectEdge_cmdIdx : (detectEdge before after).cmdIdx = after.cmdIdx := by
  unfold detectEdge; split <;> rfl
@[simp] theorem detectEdge_tx : (detectEdge before after).tx = after.tx := by
  unfold detectEdge; split <;> rfl
@[simp] theorem detectEdge_par : (detectEdge before after).par = after.par := by
  unfold detectEdge; split <;> rfl
@[simp] theorem detectEdge_rx : (detectEdge before after).rx = after.rx := by
  unfold detectEdge; split <;> rfl
@[simp] theorem detectEdge_argLoc : (detectEdge before after).argLoc = after.argLoc := by
  unfold detectEdge; split <;> rfl
@[simp] theorem detectEdge_argVal : (detectEdge before after).argVal = after.argVal := by
  unfold detectEdge; split <;> rfl
@[simp] theorem detectEdge_q : (detectEdge before after).q = after.q := by
  unfold detectEdge; split <;> rfl
@[simp] theorem detectEdge_byteIdx : (detectEdge before after).byteIdx = after.byteIdx := by
  unfold detectEdge; split <;> rfl
@[simp] theorem detectEdge_bitIdx : (detectEdge before after).bitIdx = after.bitIdx := by
  unfold detectEdge; split <;> rfl
@[simp] theorem detectEdge_acc : (detectEdge before after).acc = after.acc := by
  unfold detectEdge; split <;> rfl
@[simp] theorem detectEdge_sample : (detectEdge before after).sample = after.sample := by
  unfold detectEdge; split <;> rfl
@[simp] theorem detectEdge_dataAvailable : (detectEdge before after).dataAvailable = after.dataAvailable := by
  unfold detectEdge; split <;> rfl
@[simp] theorem detectEdge_dispState : (detectEdge before after).dispState = after.dispState := by
  unfold detectEdge; split <;> rfl
@[simp] theorem detectEdge_report : (detectEdge before after).report = after.report := by
  unfold detectEdge; split <;> rfl
@[simp] theorem detectEdge_aborted : (detectEdge before after).aborted = after.aborted := by
  unfold detectEdge; split <;> rfl
@[simp] theorem detectEdge_rspValid : (detectEdge before after).rspValid = after.rspValid := by
  unfold detectEdge; split <;> rfl
@[simp] theorem detectEdge_rptValid : (detectEdge before after).rptValid = after.rptValid := by
  unfold detectEdge; split <;> rfl
@[simp] theorem detectEdge_dlyReq : (detectEdge before after).dlyReq = after.dlyReq := by
  unfold detectEdge; split <;> rfl
@[simp] theorem detectEdge_dlyLen : (detectEdge before after).dlyLen = after.dlyLen := by
  unfold detectEdge; split <;> rfl
@[simp] theorem detectEdge_dlyDone : (detectEdge before after).dlyDone = after.dlyDone := by
  unfold detectEdge; split <;> rfl
@[simp] theorem detectEdge_rptResult : (detectEdge before after).rptResult = after.rptResult := by
  unfold detectEdge; split <;> rfl
@[simp] theorem detectEdge_devClock : (detectEdge before after).devClock = after.devClock := by
  unfold detectEdge; split <;> rfl
@[simp] theorem detectEdge_devData : (detectEdge before after).devData = after.devData := by
  unfold detectEdge; split <;> rfl
@[simp] theorem detectEdge_devFrame : (detectEdge before after).devFrame = after.devFrame := by
  unfold detectEdge; split <;> rfl
@[simp] theorem detectEdge_inputs : (detectEdge before after).inputs = after.inputs := by
  unfold detectEdge; split <;> rfl
@[simp] theorem detectEdge_freeCtr : (detectEdge before after).freeCtr = after.freeCtr := by
  unfold detectEdge; split <;> rfl
@[simp] theorem setHost_cfg (s : State) : (setHost l d s).cfg = s.cfg := by
  cases l <;> simp [setHost]
@[simp] theorem setHost_resetOut (s : State) : (setHost l d s).resetOut = s.resetOut := by
  cases l <;> simp [setHost]
@[simp] theorem setHost_mode (s : State) : (setHost l d s).mode = s.mode := by
  cases l <;> simp [setHost]
@[simp] theorem setHost_busy (s : State) : (setHost l d s).busy = s.busy := by
  cases l <;> simp [setHost]
@[simp] theorem setHost_seqOp (s : State) : (setHost l d s).seqOp = s.seqOp := by
  cases l <;> simp [setHost]
@[simp] theorem setHost_seqPc (s : State) : (setHost l d s).seqPc = s.seqPc := by
  cases l <;> simp [setHost]
@[simp] theorem setHost_bitCnt (s : State) : (setHost l d s).bitCnt = s.bitCnt := by
  cases l <;> simp [setHost]
@[simp] theorem setHost_cmdIdx (s : State) : (setHost l d s).cmdIdx = s.cmdIdx := by
  cases l <;> simp [setHost]
@[simp] theorem setHost_tx (s : State) : (setHost l d s).tx = s.tx := by
  cases l <;> simp [setHost]
@[simp] theorem setHost_par (s : State) : (setHost l d s).par = s.par := by
  cases l <;> simp [setHost]
@[simp] theorem setHost_rx (s : State) : (setHost l d s).rx = s.rx := by
  cases l <;> simp [setHost]
@[simp] theorem setHost_argLoc (s : State) : (setHost l d s).argLoc = s.argLoc := by
  cases l <;> simp [setHost]
@[simp] theorem setHost_argVal (s : State) : (setHost l d s).argVal = s.argVal := by
  cases l <;> simp [setHost]
@[simp] theorem setHost_q (s : State) : (setHost l d s).q = s.q := by
  cases l <;> simp [setHost]
@[simp] theorem setHost_byteIdx (s : State) : (setHost l d s).byteIdx = s.byteIdx := by
  cases l <;> simp [setHost]
@[simp] theorem setHost_bitIdx (s : State) : (setHost l d s).bitIdx = s.bitIdx := by
  cases l <;> simp [setHost]
@[simp] theorem setHost_acc (s : State) : (setHost l d s).acc = s.acc := by
  cases l <;> simp [setHost]
@[simp] theorem setHost_sample (s : State) : (setHost l d s).sample = s.sample := by
  cases l <;> simp [setHost]
@[simp] theorem setHost_dataAvailable (s : State) : (setHost l d s).dataAvailable = s.dataAvailable := by
  cases l <;> simp [setHost]
@[simp] theorem setHost_dispState (s : State) : (setHost l d s).dispState = s.dispState := by
  cases l <;> simp [setHost]
@[simp] theorem setHost_report (s : State) : (setHost l d s).report = s.report := by
  cases l <;> simp [setHost]
@[simp] theorem setHost_aborted (s : State) : (setHost l d s).aborted = s.aborted := by
  cases l <;> simp [setHost]
@[simp] theorem setHost_rspValid (s : State) : (setHost l d s).rspValid = s.rspValid := by
  cases l <;> simp [setHost]
@[simp] theorem setHost_rptValid (s : State) : (setHost l d s).rptValid = s.rptValid := by
  cases l <;> simp [setHost]
@[simp] theorem setHost_dlyReq (s : State) : (setHost l d s).dlyReq = s.dlyReq := by
  cases l <;> simp [setHost]
@[simp] theorem setHost_dlyLen (s : State) : (setHost l d s).dlyLen = s.dlyLen := by
  cases l <;> simp [setHost]
@[simp] theorem setHost_dlyDone (s : State) : (setHost l d s).dlyDone = s.dlyDone := by
  cases l <;> simp [setHost]
@[simp] theorem setHost_rptResult (s : State) : (setHost l d s).rptResult = s.rptResult := by
  cases l <;> simp [setHost]
@[simp] theorem setHost_devClock (s : State) : (setHost l d s).devClock = s.devClock := by
  cases l <;> simp [setHost]
@[simp] theorem setHost_devData (s : State) : (setHost l d s).devData = s.devData := by
  cases l <;> simp [setHost]
@[simp] theorem setHost_devFrame (s : State) : (setHost l d s).devFrame = s.devFrame := by
  cases l <;> simp [setHost]
@[simp] theorem setHost_inputs (s : State) : (setHost l d s).inputs = s.inputs := by
  cases l <;> simp [setHost]
@[simp] theorem setHost_freeCtr (s : State) : (setHost l d s).freeCtr = s.freeCtr := by
  cases l <;> simp [setHost]
@[simp] theorem setHost_clock_hostClock (s : State) : (setHost .clock d s).hostClock = d := by simp [setHost]
@[simp] theorem setHost_clock_hostData (s : State) : (setHost .clock d s).hostData = s.hostData := by simp [setHost]
@[simp] theorem setHost_data_hostClock (s : State) : (setHost .data d s).hostClock = s.hostClock := by simp [setHost]
@[simp] theorem setHost_data_hostData (s : State) : (setHost .data d s).hostData = d := by simp [setHost]
@[simp] theorem setDevice_cfg (c e : Drive) (s : State) : (setDevice c e s).cfg = s.cfg := by simp [setDevice]
@[simp] theorem setDevice_hostClock (c e : Drive) (s : State) : (setDevice c e s).hostClock = s.hostClock := by simp [setDevice]
@[simp] theorem setDevice_hostData (c e : Drive) (s : State) : (setDevice c e s).hostData = s.hostData := by simp [setDevice]
@[simp] theorem setDevice_resetOut (c e : Drive) (s : State) : (setDevice c e s).resetOut = s.resetOut := by simp [setDevice]
@[simp] theorem setDevice_mode (c e : Drive) (s : State) : (setDevice c e s).mode = s.mode := by simp [setDevice]
@[simp] theorem setDevice_busy (c e : Drive) (s : State) : (setDevice c e s).busy = s.busy := by simp [setDevice]
@[simp] theorem setDevice_seqOp (c e : Drive) (s : State) : (setDevice c e s).seqOp = s.seqOp := by simp [setDevice]
@[simp] theorem setDevice_seqPc (c e : Drive) (s : State) : (setDevice c e s).seqPc = s.seqPc := by simp [setDevice]
@[simp] theorem setDevice_bitCnt (c e : Drive) (s : State) : (setDevice c e s).bitCnt = s.bitCnt := by simp [setDevice]
@[simp] theorem setDevice_cmdIdx (c e : Drive) (s : State) : (setDevice c e s).cmdIdx = s.cmdIdx := by simp [setDevice]
@[simp] theorem setDevice_tx (c e : Drive) (s : State) : (setDevice c e s).tx = s.tx := by simp [setDevice]
@[simp] theorem setDevice_par (c e : Drive) (s : State) : (setDevice c e s).par = s.par := by simp [setDevice]
@[simp] theorem setDevice_rx (c e : Drive) (s : State) : (setDevice c e s).rx = s.rx := by simp [setDevice]
@[simp] theorem setDevice_argLoc (c e : Drive) (s : State) : (setDevice c e s).argLoc = s.argLoc := by simp [setDevice]
@[simp] theorem setDevice_argVal (c e : Drive) (s : State) : (setDevice c e s).argVal = s.argVal := by simp [setDevice]
@[simp] theorem setDevice_q (c e : Drive) (s : State) : (setDevice c e s).q = s.q := by simp [setDevice]
@[simp] theorem setDevice_byteIdx (c e : Drive) (s : State) : (setDevice c e s).byteIdx = s.byteIdx := by simp [setDevice]
@[simp] theorem setDevice_bitIdx (c e : Drive) (s : State) : (setDevice c e s).bitIdx = s.bitIdx := by simp [setDevice]
@[simp] theorem setDevice_acc (c e : Drive) (s : State) : (setDevice c e s).acc = s.acc := by simp [setDevice]
@[simp] theorem setDevice_sample (c e : Drive) (s : State) : (setDevice c e s).sample = s.sample := by simp [setDevice]
@[simp] theorem setDevice_dataAvailable (c e : Drive) (s : State) : (setDevice c e s).dataAvailable = s.dataAvailable := by simp [setDevice]
@[simp] theorem setDevice_dispState (c e : Drive) (s : State) : (setDevice c e s).dispState = s.dispState := by simp [setDevice]
@[simp] theorem setDevice_report (c e : Drive) (s : State) : (setDevice c e s).report = s.report := by simp [setDevice]
@[simp] theorem setDevice_aborted (c e : Drive) (s : State) : (setDevice c e s).aborted = s.aborted := by simp [setDevice]
@[simp] theorem setDevice_rspValid (c e : Drive) (s : State) : (setDevice c e s).rspValid = s.rspValid := by simp [setDevice]
@[simp] theorem setDevice_rptValid (c e : Drive) (s : State) : (setDevice c e s).rptValid = s.rptValid := by simp [setDevice]
@[simp] theorem setDevice_dlyReq (c e : Drive) (s : State) : (setDevice c e s).dlyReq = s.dlyReq := by simp [setDevice]
@[simp] theorem setDevice_dlyLen (c e : Drive) (s : State) : (setDevice c e s).dlyLen = s.dlyLen := by simp [setDevice]
@[simp] theorem setDevice_dlyDone (c e : Drive) (s : State) : (setDevice c e s).dlyDone = s.dlyDone := by simp [setDevice]
@[simp] theorem setDevice_rptResult (c e : Drive) (s : State) : (setDevice c e s).rptResult = s.rptResult := by simp [setDevice]
@[simp] theorem setDevice_devFrame (c e : Drive) (s : State) : (setDevice c e s).devFrame = s.devFrame := by simp [setDevice]
@[simp] theorem setDevice_inputs (c e : Drive) (s : State) : (setDevice c e s).inputs = s.inputs := by simp [setDevice]
@[simp] theorem setDevice_freeCtr (c e : Drive) (s : State) : (setDevice c e s).freeCtr = s.freeCtr := by simp [setDevice]
@[simp] theorem setDevice_devClock (c e : Drive) (s : State) : (setDevice c e s).devClock = c := by simp [setDevice]
@[simp] theorem setDevice_devData (c e : Drive) (s : State) : (setDevice c e s).devData = e := by simp [setDevice]

end

end Sys2Proof.Machine
end

