-- ==== Sys2Proof/Laws/Ops.lean ====
section
/-! SUPPORT. One lemma for each shared operation: everything it can do. A proof cites these and does not unfold the
operation. -/

namespace Sys2Proof.Machine

/-- The edge detector writes `edge_pending` and nothing else. -/
theorem detectEdge_eq (a b : State) : detectEdge a b = { b with
    edgePending := b.edgePending || (a.mode == .streaming && !a.aborted && level .clock a && !level .clock b) } := by
  unfold detectEdge
  split
  · rename_i h
    simp [h]
  · rename_i h
    rw [Bool.not_eq_true] at h
    simp [h]

/-- A change of one host drive, with the edge it may make. -/
theorem setHost_eq (l : Line) (d : Drive) (s : State) : ∃ b : Bool,
    setHost l d s = match l with
      | .clock => { s with hostClock := d, edgePending := b }
      | .data => { s with hostData := d, edgePending := b } := by
  cases l <;> exact ⟨_, detectEdge_eq _ _⟩

/-- A change of the device's drives, with the edge it may make. -/
theorem setDevice_eq (c d : Drive) (s : State) : ∃ b : Bool,
    setDevice c d s = { s with devClock := c, devData := d, edgePending := b } :=
  ⟨_, detectEdge_eq _ _⟩

/-- A call is accepted, or changes nothing. -/
theorem requestCall_cases (op : SeqOp) (t s : State) :
    callLegal op s = true ∧ requestCall op t s = beginSequence op t ∨
      callLegal op s = false ∧ requestCall op t s = s := by
  cases h : callLegal op s <;> simp [requestCall, h]

/-- An accepted call finds the sequencer free, in POLLING, in an engine that has not aborted. -/
theorem callLegal_free {op : SeqOp} {s : State} (h : callLegal op s = true) :
    s.busy = false ∧ s.aborted = false ∧ s.mode = .polling := by
  simp only [callLegal, Bool.and_eq_true, Bool.not_eq_true', beq_iff_eq] at h
  exact ⟨h.1.1.1, h.1.1.2, h.1.2⟩

/-- A submission shows the report; INVALID aborts. -/
theorem offerReport_eq (s : State) :
    offerReport s = { s with rptValid := true, aborted := s.aborted || s.rptResult == .invalid } := by
  cases h : s.rptResult <;> simp [offerReport, sinkSubmit, raiseAbort, h]

/-- Reading the cache clears its flag. -/
theorem cacheConsume_eq (s : State) :
    cacheConsume s = ((s.dataAvailable, s.sample), { s with dataAvailable := false }) := by
  cases h : s.dataAvailable <;> (simp [cacheConsume, cacheRead, h]; try simp [← h])

/-- A dispatch period of the streaming variant, whole. -/
theorem tickStreamStep_eq (s : State) : tickStreamStep s =
    if tickStreamLegal s && s.dataAvailable then { s with
      dataAvailable := false, report := formatReport s.cfg s.sample, rptValid := true,
      dispState := if s.rptResult = .invalid then .dispatching else .idle, aborted := s.rptResult == .invalid }
    else s := by
  unfold tickStreamStep
  by_cases h : tickStreamLegal s = true
  · have hi : s.dispState = .idle ∧ s.aborted = false := by
      simp only [tickStreamLegal, Bool.and_eq_true, beq_iff_eq, Bool.not_eq_true'] at h
      exact ⟨h.2, h.1.2⟩
    rw [cacheConsume_eq]
    cases hd : s.dataAvailable
    · simp [← hd]
    · cases hr : s.rptResult <;>
        simp [h, dispatchSample, offerReport_eq, setReport, hi]
  · simp [h]

/-- The cells of one `EDGE`: the sampler's own registers, and the shared sample cache at the end of a frame. -/
theorem edgeAction_cases (s : State) :
    (∃ a b y, edgeAction s = { s with edgePending := false, acc := a, bitIdx := b, byteIdx := y }) ∨
    edgeAction s = { s with
      edgePending := false, byteIdx := 0, bitIdx := 0, acc := ⟨0, 0, 0⟩,
      sample := ⟨s.acc.b0, s.acc.b1, s.acc.b2⟩, dataAvailable := true } := by
  simp only [edgeAction, advanceCell]
  split
  · refine .inl ?_
    unfold insertCell
    split
    · exact ⟨_, _, _, rfl⟩
    · exact ⟨s.acc, _, s.byteIdx, rfl⟩
  · have hb : ¬ s.bitIdx.val ≤ 8 := by
      rename_i h
      have hi : ∀ d, (insertCell d { s with edgePending := false }).bitIdx = s.bitIdx := by
        intro d
        unfold insertCell
        split <;> rfl
      rw [hi] at h
      omega
    have hi : ∀ d, insertCell d { s with edgePending := false } = { s with edgePending := false } := by
      intro d
      simp [insertCell, hb]
    simp only [hi]
    split
    · exact .inl ⟨s.acc, _, _, rfl⟩
    · exact .inr rfl

/-- What a turn of the sequencer leaves alone, whatever its micro-step. -/
structure TurnFrame (s t : State) : Prop where
  cfg           : t.cfg = s.cfg
  sample        : t.sample = s.sample
  dataAvailable : t.dataAvailable = s.dataAvailable
  devClock      : t.devClock = s.devClock
  devData       : t.devData = s.devData
  devFrame      : t.devFrame = s.devFrame
  rptResult     : t.rptResult = s.rptResult
  inputs        : t.inputs = s.inputs
  freeCtr       : t.freeCtr = s.freeCtr
  sampler       : s.seqPc ≠ .esFinal → t.byteIdx = s.byteIdx ∧ t.bitIdx = s.bitIdx ∧ t.acc = s.acc
  mode          : s.seqPc ≠ .esFinal → t.mode = s.mode
  noEdge        : s.mode = .polling → t.edgePending = true → s.edgePending = true
  rx            : s.seqPc ≠ .rd0 → s.seqPc ≠ .rd6b → t.rx = s.rx
  q             : s.seqPc ≠ .rd10 → t.q = s.q
  offered       : s.seqPc ≠ .p3 → t.report = s.report ∧ t.rptValid = s.rptValid ∧ t.aborted = s.aborted
  dispState     : s.seqPc ≠ .p6 → t.dispState = s.dispState

theorem TurnFrame.refl (s : State) : TurnFrame s s := by
  constructor <;> simp

theorem TurnFrame.trans {s t u : State} (f : TurnFrame s t) (g : TurnFrame t u) (hs : s.seqPc ≠ .esFinal)
    (h : t.seqPc = s.seqPc) : TurnFrame s u := by
  obtain ⟨f1, f2, f3, f4, f5, f6, f7, f8, f9, f10, f11, f12, f13, f14, f15, f16⟩ := f
  obtain ⟨g1, g2, g3, g4, g5, g6, g7, g8, g9, g10, g11, g12, g13, g14, g15, g16⟩ := g
  constructor <;> simp_all

theorem setHost_turnFrame (l : Line) (d : Drive) (s : State) : TurnFrame s (setHost l d s) := by
  cases l <;> simp only [setHost, detectEdge_eq] <;> constructor <;> simp <;> intro h <;> simp [h]

theorem setHost_noEdge (l : Line) (d : Drive) (s : State) (hm : s.mode = .polling) :
    (setHost l d s).edgePending = s.edgePending := by
  cases l <;> simp [setHost, detectEdge_eq, hm]

theorem returnToCaller_turnFrame (s : State) : TurnFrame s (returnToCaller s) := by
  unfold returnToCaller
  split
  · split <;> constructor <;> simp [completeCall]
  · constructor <;> simp

/-- A caller keeps a byte in `q`, or nothing. -/
theorem keepReadByte_eq (s : State) : ∃ p, keepReadByte s = { s with q := p } := by
  unfold keepReadByte
  split <;> repeat' split
  all_goals exact ⟨_, rfl⟩

/-- One micro-step. -/
theorem microStep_turnFrame (s : State) : TurnFrame s (microStep s) := by
  unfold microStep
  split
  case h_1 => exact .refl s
  case h_22 =>
    exact (setHost_turnFrame _ _ s).trans (returnToCaller_turnFrame _) (by simp [*]) (by simp)
  case h_37 =>
    obtain ⟨p, hp⟩ := keepReadByte_eq s
    rw [hp]
    exact .trans (t := { s with q := p }) (by constructor <;> simp [*]) (returnToCaller_turnFrame _) (by simp [*]) rfl
  case h_41 =>
    constructor <;> simp [esFinalStep, completeCall, clearFrame, release, *]
  case h_42 =>
    simp only [offerReport_eq]
    split <;> constructor <;> simp [*]
  all_goals first
    | constructor <;> simp [*] <;> done
    | constructor <;> simp +contextual [driveLow, release, setData, setHost_noEdge] <;> done
    | (simp only [delayStep]; split <;> constructor <;> simp)
    | (simp only [nextBit]; split <;> constructor <;> simp)

/-- One turn. -/
theorem seqStep_turnFrame (s : State) : TurnFrame s (seqStep s) := by
  unfold seqStep
  split
  · exact microStep_turnFrame s
  · exact .refl s

end Sys2Proof.Machine
end

