-- ==== Sys2Proof/Laws/Invariant.lean ====
section
/-! SUPPORT. What each operation does to a legal state (`Inv` of Safety.lean): every sequencer move, every event
and every request leads from a legal state to a legal one. -/

namespace Sys2Proof.Machine

theorem detectEdge_polling (a b : State) (h : a.mode = .polling) : detectEdge a b = b := by
  simp [detectEdge, h]

theorem parityAfter_eight (v : Byte) : parityAfter v 8 = oddParity v := by
  revert v; decide

theorem formatReport_shape (c : Config) (p : Sample) : ReportShape (formatReport c p) := by
  refine ⟨?_, rfl, rfl⟩
  simp only [formatReport, BitVec.toNat_umod]
  exact Nat.mod_lt _ (by decide)

theorem busy_polling {s : State} (h : Inv s) (hb : s.busy = true) : s.mode = .polling := by
  cases hm : s.mode with
  | polling => rfl
  | streaming => have := (h.streamingQuiet hm).2.2; simp_all

@[simp] theorem setHost_edgePending_polling (l d) (s : State) (h : s.mode = .polling) :
    (setHost l d s).edgePending = s.edgePending := by
  cases l <;> simp [setHost, detectEdge_polling _ _ h]

/-- What a sequencer move inside an operation leaves alone. -/
structure SeqFrame (s t : State) : Prop where
  cfg : t.cfg = s.cfg
  mode : t.mode = s.mode
  busy : t.busy = s.busy
  seqOp : t.seqOp = s.seqOp
  edgePending : t.edgePending = s.edgePending
  byteIdx : t.byteIdx = s.byteIdx
  bitIdx : t.bitIdx = s.bitIdx
  acc : t.acc = s.acc
  dataAvailable : t.dataAvailable = s.dataAvailable
  dispState : t.dispState = s.dispState
  aborted : t.aborted = s.aborted
  rptValid : t.rptValid = s.rptValid

theorem inv_move {s t : State} (h : Inv s) (hb : s.busy = true) (f : SeqFrame s t)
    (hpc : t.seqPc ≠ .idle) (hpos : PositionLegal t) (hd : DrivesMatch t) (ho : HoldOff t)
    (hpar : ParityMatches t) (hdl : DelayMatches t)
    (hr : t.rptValid = true → ReportShape t.report) : Inv t := by
  have hm := busy_polling h hb
  have hop : s.seqOp ≠ .idle := h.busyMatches.1.1 hb
  obtain ⟨h1, h2, h3, h4, h5, h6, h7, h8, h9, h10, h11, h12, h13⟩ := h
  obtain ⟨f1, f2, f3, f4, f5, f6, f7, f8, f9, f10, f11, f12⟩ := f
  constructor
  case positionLegal => exact hpos
  case drivesMatch => exact hd
  case holdOff => exact ho
  case parityMatches => exact hpar
  case delayMatches => exact hdl
  case reportMatches => exact hr
  all_goals simp_all [VariantMode, StreamingQuiet, PollingAtRest, AccClear, BusyMatches, OpInVariant, DispatchMatches]


theorem SeqFrame.trans {s t u : State} (f : SeqFrame s t) (g : SeqFrame t u) : SeqFrame s u := by
  obtain ⟨f1, f2, f3, f4, f5, f6, f7, f8, f9, f10, f11, f12⟩ := f
  obtain ⟨g1, g2, g3, g4, g5, g6, g7, g8, g9, g10, g11, g12⟩ := g
  constructor <;> simp_all

/-- An operation other than `TICK_POLL` ends, in POLLING. -/
theorem inv_complete {s t : State} (h : Inv s) (hb : s.busy = true) (f : SeqFrame s t) (hop : s.seqOp ≠ .tickPoll)
    (hq : t.dlyReq = false) (hdn : t.dlyDone = false) (hr : t.report = s.report) : Inv (completeCall t) := by
  have hm := busy_polling h hb
  have hrep : s.rptValid = true → ReportShape s.report := h.reportMatches
  obtain ⟨h1, h2, h3, h4, h5, h6, -, -, -, -, h11, h12, -⟩ := h
  obtain ⟨f1, f2, f3, f4, f5, f6, f7, f8, f9, f10, f11, f12⟩ := f
  constructor
  case reportMatches => simpa [ReportMatches, f12, hr] using hrep
  all_goals
    simp_all [VariantMode, StreamingQuiet, PollingAtRest, AccClear, BusyMatches, OpInVariant, PositionLegal,
      DrivesMatch, HoldOff, ParityMatches, DelayMatches, DispatchMatches, drivesAt, positionLegal, labelPart]

/-- The next call of an operation is a legal position. -/
theorem entryLabel_next (o : SeqOp) (c : Fin 8) (h : c.val < (lastIdx o).val) :
    (entryLabel o (c + 1) = .wr0 ∨ entryLabel o (c + 1) = .rd0 ∨ entryLabel o (c + 1) = .esFinal) ∧
      positionLegal o (c + 1) (entryLabel o (c + 1)) = true := by
  revert h; cases o <;> revert c <;> decide

theorem returnToCaller_inv {s t : State} (h : Inv s) (hb : s.busy = true) (f : SeqFrame s t)
    (hc : t.cmdIdx = s.cmdIdx) (hp : s.seqPc = .wr15 ∨ s.seqPc = .rd10) (hw : t.hostClock = .low)
    (hd : t.hostData = .rel) (hq : t.dlyReq = false) (hdn : t.dlyDone = false) (hr : t.report = s.report) :
    Inv (returnToCaller t) := by
  have hrep : s.rptValid = true → ReportShape s.report := h.reportMatches
  have hpos := h.positionLegal
  have hle : s.cmdIdx.val ≤ (lastIdx s.seqOp).val := by
    rcases hp with hp | hp <;> simp [PositionLegal, positionLegal, labelPart, hp] at hpos <;> exact hpos.2
  simp only [returnToCaller, hc, f.seqOp]
  split
  · split
    · rename_i ho
      refine inv_move h hb (f.trans (by constructor <;> rfl)) (by simp) ?_ ?_ ?_ ?_ ?_ ?_
      · simp [PositionLegal, positionLegal, labelPart, f.seqOp, ho]
      · simp [DrivesMatch, drivesAt, hw, hd]
      · simp [HoldOff]
      · simp [ParityMatches]
      · simp [DelayMatches, hq, hdn]
      · simpa [f.rptValid, hr] using hrep
    · exact inv_complete h hb f (by assumption) hq hdn hr
  · rename_i hne
    have hlt : s.cmdIdx.val < (lastIdx s.seqOp).val :=
      lt_of_le_of_ne hle fun h => hne (Fin.ext h)
    obtain ⟨hent, hent2⟩ := entryLabel_next _ _ hlt
    refine inv_move h hb (f.trans (by constructor <;> first | rfl | exact f.seqOp.symm)) ?_ ?_ ?_ ?_ ?_ ?_ ?_
    · rcases hent with e | e | e <;> simp [e]
    · simpa [PositionLegal, f.seqOp] using hent2
    · rcases hent with e | e | e <;> simp [DrivesMatch, e, drivesAt, hw, hd]
    · simp [HoldOff, hw, hd]
    · rcases hent with e | e | e <;> simp [ParityMatches, e]
    · simp [DelayMatches, hq, hdn]
    · simpa [f.rptValid, hr] using hrep

/-- Where no delay is asked for, none is answered. -/
theorem no_delay {s : State} (h : Inv s) (hk : stepKind s.seqPc ≠ .delay) : s.dlyReq = false ∧ s.dlyDone = false := by
  have hr : s.dlyReq = false := by
    cases hx : s.dlyReq
    · rfl
    · exact absurd (h.delayMatches.1 hx) hk
  refine ⟨hr, ?_⟩
  cases hx : s.dlyDone
  · rfl
  · have := h.delayMatches.2 hx; simp_all

theorem delayStep_inv {s : State} (h : Inv s) (hb : s.busy = true) (n : Label) (hk : stepKind s.seqPc = .delay)
    (hn : n ≠ .idle ∧ n ≠ .wr0 ∧ n ≠ .rd0 ∧ n ≠ .wr9a)
    (h1 : positionLegal s.seqOp s.cmdIdx n = positionLegal s.seqOp s.cmdIdx s.seqPc)
    (h2 : drivesAt n = drivesAt s.seqPc) (h3 : ParityMatches { s with seqPc := n } = ParityMatches s) :
    Inv (delayStep n s) := by
  have hr : s.rptValid = true → ReportShape s.report := h.reportMatches
  simp only [delayStep]
  split
  · apply inv_move h hb
    · constructor <;> rfl
    · exact hn.1
    · exact h1.trans h.positionLegal
    · simpa [DrivesMatch, h2] using h.drivesMatch
    · simp [HoldOff, hn]
    · exact h3.mpr h.parityMatches
    · simp [DelayMatches]
    · simpa [hn] using hr
  · apply inv_move h hb
    · constructor <;> rfl
    · exact fun hi => by rw [show s.seqPc = .idle from hi] at hk; exact absurd hk (by decide)
    · exact h.positionLegal
    · exact h.drivesMatch
    · exact h.holdOff
    · exact h.parityMatches
    · simp [DelayMatches, hk]
    · exact h.reportMatches

theorem microStep_inv {s : State} (h : Inv s) (he : seqEnabled s = true) : Inv (microStep s) := by
  have hb : s.busy = true := by simp [seqEnabled] at he; exact he.1.1
  have ha : s.aborted = false := by simp [seqEnabled] at he; exact he.1.2
  have hm := busy_polling h hb
  have hpos := h.positionLegal
  have hd := h.drivesMatch
  have hpar := h.parityMatches
  have hdl := no_delay h
  have hr : s.rptValid = true → ReportShape s.report := h.reportMatches
  cases hpc : s.seqPc
  case idle => simp [seqEnabled, microReady, stepKind, hpc] at he
  case wr15 =>
    obtain ⟨hq, hdn⟩ := hdl (by simp [hpc, stepKind])
    simp only [DrivesMatch, hpc, drivesAt] at hd
    simp only [microStep, hpc]
    refine returnToCaller_inv h hb ?_ ?_ (.inl hpc) ?_ ?_ ?_ ?_ ?_
    · constructor <;> simp [driveLow, hm]
    all_goals simp_all [driveLow]
  case rd10 =>
    obtain ⟨hq, hdn⟩ := hdl (by simp [hpc, stepKind])
    simp only [DrivesMatch, hpc, drivesAt] at hd
    simp only [microStep, hpc]
    have hk : SeqFrame s (keepReadByte s) ∧ (keepReadByte s).cmdIdx = s.cmdIdx ∧
        (keepReadByte s).hostClock = s.hostClock ∧ (keepReadByte s).hostData = s.hostData ∧
        (keepReadByte s).dlyReq = s.dlyReq ∧ (keepReadByte s).dlyDone = s.dlyDone ∧
        (keepReadByte s).report = s.report := by
      refine ⟨⟨?_, ?_, ?_, ?_, ?_, ?_, ?_, ?_, ?_, ?_, ?_, ?_⟩, ?_, ?_, ?_, ?_, ?_, ?_⟩ <;>
        (unfold keepReadByte; split <;> (try split) <;> (try split) <;> (try split) <;> rfl)
    obtain ⟨f, k1, k2, k3, k4, k5, k6⟩ := hk
    exact returnToCaller_inv h hb f k1 (.inr hpc) (k2.trans (hd.1 _ rfl)) (k3.trans (hd.2 _ rfl)) (k4.trans hq) (k5.trans hdn) k6
  case esFinal =>
    obtain ⟨hq, hdn⟩ := hdl (by simp [hpc, stepKind])
    have ho : s.seqOp = .enableStreaming := by
      simp [PositionLegal, positionLegal, labelPart, hpc] at hpos; exact hpos.1
    have hv := h.opInVariant.1 ho
    have hdisp : s.dispState = .idle := by
      cases hx : s.dispState
      · rfl
      · have := h.dispatchMatches.2 hx; simp_all
    simp only [microStep, hpc]
    constructor
    case reportMatches => simpa [ReportMatches, esFinalStep, release] using hr
    all_goals
      simp [esFinalStep, release, VariantMode, StreamingQuiet, PollingAtRest, AccClear, BusyMatches, OpInVariant, PositionLegal,
        DrivesMatch, HoldOff, ParityMatches, DelayMatches, DispatchMatches, drivesAt, positionLegal, labelPart, hq, hdn, hv, hdisp]
  case p3 =>
    obtain ⟨hq, hdn⟩ := hdl (by simp [hpc, stepKind])
    have hs := formatReport_shape s.cfg s.q
    have ho : s.seqOp = .tickPoll := by
      simpa [PositionLegal, positionLegal, labelPart, hpc] using hpos
    simp only [DrivesMatch, hpc, drivesAt] at hd
    simp only [microStep, hpc, offerReport_eq, setReport_aborted, setReport_rptResult, ha, Bool.false_or]
    obtain ⟨h1, h2, h3, h4, h5, h6, -, -, -, -, h11, h12, -⟩ := h
    split <;> constructor
    case reportMatches | reportMatches => exact fun _ => hs
    all_goals
      clear hdl hpar
      simp_all [VariantMode, StreamingQuiet, PollingAtRest, AccClear, BusyMatches, OpInVariant, PositionLegal,
        DrivesMatch, HoldOff, ParityMatches, DelayMatches, DispatchMatches, drivesAt, positionLegal, labelPart]
  case p6 =>
    obtain ⟨hq, hdn⟩ := hdl (by simp [hpc, stepKind])
    simp only [microStep, hpc]
    obtain ⟨h1, h2, h3, h4, h5, h6, -, -, -, -, h11, h12, -⟩ := h
    constructor
    case reportMatches => simpa [ReportMatches] using hr
    all_goals
      clear hdl hpar
      simp_all [VariantMode, StreamingQuiet, PollingAtRest, AccClear, BusyMatches, OpInVariant, PositionLegal,
        DrivesMatch, HoldOff, ParityMatches, DelayMatches, DispatchMatches, drivesAt, positionLegal, labelPart]
  case rs2 =>
    obtain ⟨hq, hdn⟩ := hdl (by simp [hpc, stepKind])
    simp only [microStep, hpc]
    refine inv_complete h hb ?_ ?_ hq hdn rfl
    · constructor <;> rfl
    · have : s.seqOp = .reset := by simpa [PositionLegal, positionLegal, labelPart, hpc] using hpos
      simp [this]
  case wr9d =>
    obtain ⟨hq, hdn⟩ := hdl (by simp [hpc, stepKind])
    simp only [PositionLegal, DrivesMatch, ParityMatches, hpc, drivesAt, positionLegal, labelPart] at hpos hd hpar
    simp only [microStep, hpc, nextBit]
    split
    · rename_i hlt
      have hv : (s.bitCnt + 1 : Fin 8).val = s.bitCnt.val + 1 := by
        have := s.bitCnt.isLt; simp [Fin.val_add]; omega
      refine inv_move h hb ?_ ?_ ?_ ?_ ?_ ?_ ?_ ?_
      · constructor <;> rfl
      case refine_7 => simp [DelayMatches, hq, hdn]
      case refine_8 => simpa using hr
      all_goals simp_all [PositionLegal, DrivesMatch, HoldOff, ParityMatches, drivesAt, positionLegal, labelPart, parityAfter]
    · rename_i hge
      have hv : s.bitCnt.val = 7 := by have := s.bitCnt.isLt; omega
      refine inv_move h hb ?_ ?_ ?_ ?_ ?_ ?_ ?_ ?_
      · constructor <;> rfl
      case refine_6 => simp [ParityMatches, hpar, hv, ← parityAfter_eight, parityAfter]
      case refine_7 => simp [DelayMatches, hq, hdn]
      case refine_8 => simpa using hr
      all_goals simp_all [PositionLegal, DrivesMatch, HoldOff, drivesAt, positionLegal, labelPart]
  case rd6c =>
    obtain ⟨hq, hdn⟩ := hdl (by simp [hpc, stepKind])
    simp only [PositionLegal, DrivesMatch, ParityMatches, hpc, drivesAt, positionLegal, labelPart] at hpos hd hpar
    simp only [microStep, hpc, nextBit]
    split <;>
    · refine inv_move h hb ?_ ?_ ?_ ?_ ?_ ?_ ?_ ?_
      · constructor <;> rfl
      case refine_7 => simp [DelayMatches, hq, hdn]
      case refine_8 => simpa using hr
      all_goals simp_all [PositionLegal, DrivesMatch, HoldOff, ParityMatches, drivesAt, positionLegal, labelPart]
  case wr2 | wr4 | wr6 | wr12 | rd2 | rd4 | rs1 =>
    simp only [microStep, hpc]
    apply delayStep_inv h hb <;> simp [hpc, stepKind, positionLegal, labelPart, drivesAt, ParityMatches]
  all_goals
    simp only [PositionLegal, DrivesMatch, ParityMatches, hpc, drivesAt, positionLegal, labelPart] at hpos hd hpar hdl
    obtain ⟨hq, hdn⟩ := hdl (by decide)
    refine inv_move h hb (t := microStep s) ?_ ?_ ?_ ?_ ?_ ?_ ?_ ?_
    · constructor <;> simp [microStep, hpc, release, driveLow, setData, hm]
    case refine_8 => simpa [microStep, hpc, release, driveLow, setData] using hr
    all_goals simp_all [microStep, release, driveLow, setData, PositionLegal, DrivesMatch, HoldOff, ParityMatches, DelayMatches, drivesAt, positionLegal, labelPart, parityAfter]

theorem seqStep_inv {s : State} (h : Inv s) : Inv (seqStep s) := by
  unfold seqStep
  split
  · exact microStep_inv h (by assumption)
  · exact h

/-- A change of nothing but ports and environment keeps a state legal. -/
theorem inv_outside {s t : State} (h : Inv s) (f : SeqFrame s t) (hpc : t.seqPc = s.seqPc) (hi : t.cmdIdx = s.cmdIdx)
    (hc : t.hostClock = s.hostClock) (hd : t.hostData = s.hostData) (hb : t.bitCnt = s.bitCnt) (hx : t.tx = s.tx)
    (hp : t.par = s.par) (hr : t.report = s.report) (hq : t.dlyReq = s.dlyReq)
    (hdn : t.dlyDone = true → t.dlyReq = true) : Inv t := by
  obtain ⟨h1, h2, h3, h4, h5, h6, h7, h8, h9, h10, h11, h12, h13⟩ := h
  obtain ⟨f1, f2, f3, f4, f5, f6, f7, f8, f9, f10, f11, f12⟩ := f
  constructor
  case delayMatches => exact ⟨by simpa [hq, hpc] using h11.1, hdn⟩
  case parityMatches => simpa [ParityMatches, hpc, hp, hb, hx] using h10
  case drivesMatch => simpa [DrivesMatch, hpc, hc, hd] using h8
  case reportMatches => simpa [ReportMatches, f12, hpc, hr] using h13
  case positionLegal => simpa [PositionLegal, f4, hi, hpc] using h7
  case holdOff => simpa [HoldOff, hi, hpc, hc, hd] using h9
  all_goals
    clear h7 h8 h9 h10 h11 h13
    simp_all [VariantMode, StreamingQuiet, PollingAtRest, AccClear, BusyMatches, OpInVariant, DispatchMatches]

theorem delayDone_inv {s : State} (h : Inv s) : Inv (delayDone s) := by
  unfold delayDone
  split
  · refine inv_outside h ?_ rfl rfl rfl rfl rfl rfl rfl rfl rfl fun _ => by assumption
    constructor <;> rfl
  · exact h

theorem sink_inv {s : State} (h : Inv s) (a : SinkAnswer) : Inv { s with rptResult := a } := by
  refine inv_outside h ?_ rfl rfl rfl rfl rfl rfl rfl rfl rfl h.delayMatches.2
  constructor <;> rfl

theorem devFrame_inv {s : State} (h : Inv s) (l : List Bool) : Inv { s with devFrame := l } := by
  refine inv_outside h ?_ rfl rfl rfl rfl rfl rfl rfl rfl rfl h.delayMatches.2
  constructor <;> rfl

/-- A pending edge can be set only in STREAMING. -/
theorem edgePending_inv {s : State} (h : Inv s) (hm : s.mode = .streaming) (b : Bool) : Inv { s with edgePending := b } := by
  obtain ⟨h1, h2, h3, h4, h5, h6, h7, h8, h9, h10, h11, h12, h13⟩ := h
  exact ⟨h1, h2, fun hp => by simp [hm] at hp, h4, h5, h6, h7, h8, h9, h10, h11, h12, h13⟩

theorem setDevice_inv {s : State} (h : Inv s) (c d : Drive) : Inv (setDevice c d s) := by
  have ht : Inv { s with devClock := c, devData := d } := by
    refine inv_outside h ?_ rfl rfl rfl rfl rfl rfl rfl rfl rfl h.delayMatches.2
    constructor <;> rfl
  unfold setDevice detectEdge
  split
  · rename_i hc
    exact edgePending_inv ht (by simp at hc; exact hc.1.1.1) true
  · exact ht

/-- A move of the sampler or of the cache in STREAMING. -/
theorem inv_sampler {s : State} (h : Inv s) (hm : s.mode = .streaming) (e : Bool) (y : Fin 3) (b : Fin 11) (a : Acc)
    (p : Sample) (v : Bool) (ha : y = 0 ∧ b = 0 → a = ⟨0, 0, 0⟩) :
    Inv { s with edgePending := e, byteIdx := y, bitIdx := b, acc := a, sample := p, dataAvailable := v } := by
  obtain ⟨h1, h2, h3, h4, h5, h6, h7, h8, h9, h10, h11, h12, h13⟩ := h
  exact ⟨h1, h2, fun hp => by simp [hm] at hp, ha, h5, h6, h7, h8, h9, h10, h11, h12, h13⟩

theorem edgeAction_inv {s : State} (h : Inv s) (hm : s.mode = .streaming) : Inv (edgeAction s) := by
  have hins : ∀ (d : Bool) (t : State), insertCell d t =
      { t with acc := (insertCell d t).acc } ∧ (t.bitIdx = 0 → (insertCell d t).acc = t.acc) := by
    intro d t
    unfold insertCell
    split
    · exact ⟨rfl, fun hb => by simp_all⟩
    · exact ⟨rfl, fun _ => rfl⟩
  unfold edgeAction
  obtain ⟨hi, hz⟩ := hins (level .data s) { s with edgePending := false }
  simp only
  rw [hi]
  unfold advanceCell
  split
  · rename_i hlt
    have hne : (s.bitIdx + 1 : Fin 11) ≠ 0 := by
      intro hx
      have := congrArg Fin.val hx
      simp only [Fin.val_add, Fin.val_one, Fin.val_zero] at this
      simp only at hlt
      omega
    exact inv_sampler h hm _ _ _ _ _ _ fun hx => absurd hx.2 hne
  · split
    · rename_i hlt
      have hne : (s.byteIdx + 1 : Fin 3) ≠ 0 := by
        intro hx
        have := congrArg Fin.val hx
        simp only [Fin.val_add, Fin.val_one, Fin.val_zero] at this
        simp only at hlt
        omega
      exact inv_sampler h hm _ _ _ _ _ _ fun hx => absurd hx.1 hne
    · exact inv_sampler h hm _ _ _ _ _ _ fun _ => rfl

theorem edgeStep_inv {s : State} (h : Inv s) : Inv (edgeStep s) := by
  unfold edgeStep
  split
  · rename_i he
    exact edgeAction_inv h (by simp [edgeEnabled] at he; exact he.1.1.1)
  · exact h

theorem frameStartStep_inv {s : State} (h : Inv s) : Inv (frameStartStep s) := by
  unfold frameStartStep
  split
  · rename_i hc
    exact inv_sampler h (by simp at hc; exact hc.1) _ _ _ _ _ _ fun _ => rfl
  · exact h

theorem clearStrobes_inv {s : State} (h : Inv s) (l : List Input) : Inv (afterFetch l s) := by
  obtain ⟨h1, h2, h3, h4, h5, h6, h7, h8, h9, h10, h11, h12, h13⟩ := h
  exact ⟨h1, h2, h3, h4, h5, h6, h7, h8, h9, h10, h11, h12, nofun⟩

/-- A report of a Sample offered to the sink, with the dispatcher left Dispatching only by Abort. -/
theorem offer_inv {s : State} (h : Inv s) (p : Sample) : Inv (offerReport (setReport p s)) := by
  have hs := formatReport_shape s.cfg p
  obtain ⟨h1, h2, h3, h4, h5, h6, h7, h8, h9, h10, h11, h12, h13⟩ := h
  simp only [offerReport, sinkSubmit]
  cases hr : s.rptResult <;> simp only [setReport_rptResult, hr]
  · exact ⟨h1, h2, h3, h4, h5, h6, h7, h8, h9, h10, h11, h12, fun _ => hs⟩
  · exact ⟨h1, h2, h3, h4, h5, h6, h7, h8, h9, h10, h11, h12, fun _ => hs⟩
  · exact ⟨h1, h2, h3, h4, h5, h6, h7, h8, h9, h10, h11, ⟨h12.1, fun _ => .inl rfl⟩, fun _ => hs⟩

theorem tickStreamStep_inv {s : State} (h : Inv s) : Inv (tickStreamStep s) := by
  unfold tickStreamStep
  split
  · rename_i hl
    simp only [tickStreamLegal, Bool.and_eq_true, beq_iff_eq, Bool.not_eq_true'] at hl
    obtain ⟨⟨hv, ha⟩, hd⟩ := hl
    obtain ⟨h1, h2, h3, h4, h5, h6, h7, h8, h9, h10, h11, h12, h13⟩ := h
    cases hf : s.dataAvailable <;> simp only [cacheConsume, cacheRead, hf, if_true, Bool.false_eq_true, if_false]
    · exact ⟨h1, h2, h3, h4, h5, h6, h7, h8, h9, h10, h11, h12, h13⟩
    · have hs := formatReport_shape s.cfg s.sample
      have hm : s.mode = .streaming := by
        cases hx : s.mode
        · have := (h3 hx).2.2.2; simp_all
        · rfl
      have h3' : ∀ t : State, t.mode = s.mode → PollingAtRest t := fun t ht hp => by simp_all
      have hnt : s.seqOp ≠ .tickPoll := fun ho => by have := h6.2 (.inr ho); simp_all
      simp only [dispatchSample, offerReport, sinkSubmit]
      cases hr : s.rptResult <;>
        simp only [setReport_rptResult, raiseAbort_aborted, setReport_aborted, ha, if_true, Bool.false_eq_true, if_false]
      · exact ⟨h1, h2, h3' _ rfl, h4, h5, h6, h7, h8, h9, h10, h11, ⟨fun ho => absurd ho hnt, by simp⟩, fun _ => hs⟩
      · exact ⟨h1, h2, h3' _ rfl, h4, h5, h6, h7, h8, h9, h10, h11, ⟨fun ho => absurd ho hnt, by simp⟩, fun _ => hs⟩
      · exact ⟨h1, h2, h3' _ rfl, h4, h5, h6, h7, h8, h9, h10, h11, ⟨fun ho => absurd ho hnt, by simp⟩, fun _ => hs⟩
  · exact h

/-- The start of a sequence in POLLING, by an engine that is not busy. -/
theorem beginSequence_inv {s t : State} (op : SeqOp) (h : Inv s) (hb : s.busy = false) (hm : s.mode = .polling)
    (hop : op ≠ .idle) (ho : OpInVariant { s with seqOp := op })
    (f : SeqFrame s { t with dispState := s.dispState }) (hr : t.report = s.report) (hd : t.dlyReq = s.dlyReq)
    (hdn : t.dlyDone = s.dlyDone) (hdisp : DispatchMatches { t with seqOp := op }) : Inv (beginSequence op t) := by
  obtain ⟨h1, h2, h3, h4, h5, h6, -, -, -, -, h11, h12, h13⟩ := h
  obtain ⟨f1, f2, f3, f4, f5, f6, f7, f8, f9, -, f11, f12⟩ := f
  simp only at f1 f2 f3 f4 f5 f6 f7 f8 f9 f11 f12
  have hnop : s.seqOp = .idle := by
    by_contra hx; exact absurd (h5.1.2 hx) (by simp [hb])
  have hpc : s.seqPc = .idle := h5.2.1 hnop
  have hq : s.dlyReq = false := by
    cases hx : s.dlyReq
    · rfl
    · have := h11.1 hx; simp [hpc, stepKind] at this
  have hq2 : s.dlyDone = false := by
    cases hx : s.dlyDone
    · rfl
    · have := h11.2 hx; simp_all
  have hrep : s.rptValid = true → ReportShape s.report := h13
  have hl : entryLabel op 0 = .wr0 ∨ entryLabel op 0 = .rd0 ∨ entryLabel op 0 = .rs0 := by
    revert hop; cases op <;> decide
  have hpos : positionLegal op 0 (entryLabel op 0) = true := by
    revert hop; cases op <;> decide
  constructor
  case positionLegal => exact hpos
  case dispatchMatches => exact hdisp
  case reportMatches =>
    rcases hl with e | e | e <;> simpa [ReportMatches, e, f12, hr] using hrep
  case drivesMatch => rcases hl with e | e | e <;> simp [DrivesMatch, e, drivesAt]
  case parityMatches => rcases hl with e | e | e <;> simp [ParityMatches, e]
  case delayMatches => simp [DelayMatches, hd, hdn, hq, hq2]
  case holdOff => simp [HoldOff]
  case busyMatches => rcases hl with e | e | e <;> simp [BusyMatches, e, hop]
  case opInVariant => simpa [OpInVariant, f1] using ho
  case streamingQuiet => intro hx; simp [f2, hm] at hx
  case variantMode => intro hx; simpa [f2] using hm
  case pollingAtRest => intro _; simpa [f5, f6, f7, f9] using h3 hm
  case accClear => simpa [AccClear, f6, f7, f8] using h4

theorem tickPollStep_inv {s : State} (h : Inv s) : Inv (tickPollStep s) := by
  unfold tickPollStep
  split
  · rename_i hl
    simp only [tickPollLegal, Bool.and_eq_true, beq_iff_eq, Bool.not_eq_true'] at hl
    obtain ⟨⟨⟨hv, ha⟩, hd⟩, hb⟩ := hl
    refine beginSequence_inv .tickPoll h hb (h.variantMode hv) (by simp) (by simp [OpInVariant, hv]) ?_ rfl rfl rfl
      (by simp [DispatchMatches])
    constructor <;> rfl
  · exact h

theorem requestCall_inv {s t : State} (op : SeqOp) (h : Inv s) (hop : op ≠ .idle ∧ op ≠ .tickPoll)
    (f : SeqFrame s t) (hr : t.report = s.report) (hd : t.dlyReq = s.dlyReq) (hdn : t.dlyDone = s.dlyDone) :
    Inv (requestCall op t s) := by
  unfold requestCall
  split
  · rename_i hl
    simp only [callLegal, Bool.and_eq_true, beq_iff_eq, Bool.not_eq_true'] at hl
    obtain ⟨⟨⟨hb, ha⟩, hm⟩, hv⟩ := hl
    have hno : s.seqOp = .idle := by
      by_contra hx; exact absurd (h.busyMatches.1.2 hx) (by simp [hb])
    have hdi : s.dispState ≠ .dispatching := fun hx => by have := h.dispatchMatches.2 hx; simp_all
    refine beginSequence_inv op h hb hm hop.1 ?_ ?_ hr hd hdn ?_
    · revert hv; cases op <;> simp_all [OpInVariant]
    · obtain ⟨f1, f2, f3, f4, f5, f6, f7, f8, f9, f10, f11, f12⟩ := f
      constructor <;> simp_all
    · simp [DispatchMatches, hop, f.dispState, hdi]
  · exact h

theorem hardwareReset_inv (s : State) : Inv (hardwareReset s) := by
  constructor <;>
    simp [hardwareReset, State.resetOf, VariantMode, StreamingQuiet, PollingAtRest, AccClear, BusyMatches, OpInVariant,
      PositionLegal, DrivesMatch, HoldOff, ParityMatches, DelayMatches, DispatchMatches, ReportMatches, drivesAt,
      positionLegal, labelPart]

end Sys2Proof.Machine
end

