-- ==== Sys2Proof/Laws/Moves.lean ====
section
/-! SUPPORT. Everything a step can do, said once: a step is made of port rows, turns of the sequencer, changes of the
device's drives, delay completions and sink answers, and a wire transaction is a sequence of those. What each of them
keeps, every instruction and every step keeps. -/

namespace Sys2Proof.Machine

/-- `P` is kept by everything that happens between two requests: `EDGE` steps, turns of the sequencer, changes of the
device's drives, and delays that end. -/
structure KeptByTurns (P : State → Prop) : Prop where
  edge   : ∀ {s : State}, P s → P (edgeStep s)
  turn   : ∀ {s : State}, P s → P (seqStep s)
  device : ∀ {s : State} (c d : Drive), P s → P (setDevice c d s)
  delay  : ∀ {s : State}, P s → P (delayDone s)

/-- `P` is kept by every single move but `hw_reset`. -/
structure KeptByMoves (P : State → Prop) : Prop where
  port   : ∀ {i : Instr} {s t : State}, isPortRow i = true → i ≠ .hwReset → P s → exec i s = .next t → P t
  turn   : ∀ {s : State}, P s → P (seqStep s)
  device : ∀ {s : State} (c d : Drive), P s → P (setDevice c d s)
  delay  : ∀ {s : State}, P s → P (delayDone s)
  record : ∀ {s : State} (l : List Bool), P s → P { s with devFrame := l }

/-- And by the offer of a report. -/
structure KeptByRows (P : State → Prop) : Prop extends KeptByMoves P where
  report : ∀ {s : State} (p : Sample), s.aborted = false → P s → P (offerReport (setReport p s))

variable {P : State → Prop}

theorem KeptByTurns.settleStep_kept (h : KeptByTurns P) {s : State} (hs : P s) : P (settleStep s) := by
  unfold settleStep
  split
  · rename_i he
    have := h.edge hs
    simpa [edgeStep, he] using this
  · split
    · rename_i he
      have := h.turn hs
      simpa [seqStep, he] using this
    · exact h.delay hs

theorem KeptByTurns.settleFor_kept (h : KeptByTurns P) (n : Nat) : ∀ {s : State}, P s → P (settleFor n s) := by
  induction n with
  | zero => exact fun hs => hs
  | succ n ih =>
    intro s hs
    unfold settleFor
    split
    · exact ih (h.settleStep_kept hs)
    · exact hs

theorem KeptByTurns.phase_kept (h : KeptByTurns P) (c d : Drive) {s : State} (hs : P s) : P (phase c d s) :=
  h.settleFor_kept 40 (h.device c d hs)

theorem KeptByTurns.sendCell_kept (h : KeptByTurns P) (b : Bool) {s : State} (hs : P s) : P (sendCell b s) :=
  h.phase_kept _ _ (h.phase_kept _ _ (h.phase_kept _ _ hs))

theorem KeptByTurns.sendBits_kept (h : KeptByTurns P) (v : Byte) (n : Nat) :
    ∀ (i : Nat) {s : State}, P s → P (sendBits v n i s) := by
  induction n with
  | zero => exact fun _ _ hs => hs
  | succ n ih => exact fun i _ hs => ih (i + 1) (h.sendCell_kept _ hs)

theorem KeptByTurns.sendFrame_kept (h : KeptByTurns P) (f : D2hFrame) {s : State} (hs : P s) : P (sendFrame f s) := by
  have ht : P (deviceRests s) := h.phase_kept _ _ hs
  simp only [sendFrame]
  split
  · unfold sendCells
    exact h.phase_kept _ _ (h.sendCell_kept _ (h.sendCell_kept _ (h.sendBits_kept _ _ _ (h.sendCell_kept _ ht))))
  · exact ht

theorem KeptByMoves.turns (h : KeptByMoves P) : KeptByTurns P where
  edge   := fun hs => h.port (i := .edge) rfl nofun hs rfl
  turn   := h.turn
  device := h.device
  delay  := h.delay

theorem KeptByMoves.latchCells_kept (h : KeptByMoves P) (n : Nat) : ∀ {s : State}, P s → P (latchCells n s) := by
  induction n with
  | zero => exact fun hs => hs
  | succ n ih =>
    intro s hs
    refine ih ?_
    unfold latchCell
    exact h.turns.phase_kept _ _ (h.record _ (h.turns.phase_kept _ _ hs))

theorem KeptByMoves.answerRequest_kept (h : KeptByMoves P) {s : State} (hs : P s) : P (answerRequest s) := by
  have ht : P (deviceRests s) := h.turns.phase_kept _ _ hs
  simp only [answerRequest]
  split
  · unfold clockFrame
    exact h.turns.phase_kept _ _ (h.turns.phase_kept _ _ (h.turns.phase_kept _ _ (h.turns.phase_kept _ _
      (h.latchCells_kept 10 (h.turns.phase_kept _ _ (h.record _ ht))))))
  · exact ht

theorem KeptByMoves.transferByte_kept (h : KeptByMoves P) (v : Byte) {s : State} (hs : P s) :
    P (transferByte v s) := by
  unfold transferByte
  split
  · refine h.answerRequest_kept ?_
    split
    · exact hs
    · exact h.port (i := .writeByte v) rfl nofun hs rfl
  · exact hs

theorem KeptByMoves.exchange_kept (h : KeptByMoves P) (a : Byte) {s : State} (hs : P s) : P (exchange a s) :=
  h.turns.sendFrame_kept _ (h.answerRequest_kept hs)

/-- What every single move keeps, every instruction but `hw_reset` and the RPT row keeps. -/
theorem KeptByMoves.wire_kept (h : KeptByMoves P) {i : Instr} {s t : State} (hi : i ≠ .hwReset)
    (hp : ∀ p, i ≠ .rpt p) (hs : P s) (he : exec i s = .next t) : P t := by
  cases i
  case h2d v =>
    simp only [exec, execH2d, Host.Outcome.next.injEq] at he
    subst he
    exact h.transferByte_kept v hs
  case d2h f =>
    simp only [exec, execD2h, Host.Outcome.next.injEq] at he
    subst he
    exact h.turns.sendFrame_kept f hs
  case mov a b c =>
    simp only [exec, execMov, Host.Outcome.next.injEq] at he
    subst he
    exact h.turns.sendFrame_kept c (h.turns.sendFrame_kept b (h.turns.sendFrame_kept a hs))
  case cmdReadData =>
    simp only [exec, execCmdReadData, Host.Outcome.next.injEq] at he
    subst he
    exact h.transferByte_kept _ hs
  case cmdRamSelect =>
    simp only [exec, execCmdRamSelect, Host.Outcome.next.injEq] at he
    subst he
    exact h.transferByte_kept _ hs
  case cmdRamSet =>
    simp only [exec, execCmdRamSet, Host.Outcome.next.injEq] at he
    subst he
    exact h.transferByte_kept _ hs
  case cmdSetStreamMode =>
    simp only [exec, execCmdSetStreamMode, Host.Outcome.next.injEq] at he
    subst he
    exact h.transferByte_kept _ hs
  case cmdEnableReporting =>
    simp only [exec, execCmdEnableReporting, Host.Outcome.next.injEq] at he
    subst he
    exact h.transferByte_kept _ hs
  case ack v =>
    simp only [exec, execAck, Host.Outcome.next.injEq] at he
    subst he
    exact h.turns.sendFrame_kept _ hs
  case seqWriteRam l v a0 a1 a2 a3 =>
    simp only [exec, execSeqWriteRam, Host.Outcome.next.injEq] at he
    subst he
    split
    · exact h.exchange_kept _ (h.exchange_kept _ (h.exchange_kept _ (h.exchange_kept _
        (h.port (i := .writeRam l v) rfl nofun hs rfl))))
    · exact hs
  case seqEnableStreaming a0 a1 =>
    simp only [exec, execSeqEnableStreaming, Host.Outcome.next.injEq] at he
    subst he
    split
    · exact h.exchange_kept _ (h.exchange_kept _ (h.port (i := .enableStreaming) rfl nofun hs rfl))
    · exact hs
  case seqQuery a0 st x y =>
    simp only [exec, execSeqQuery, Host.Outcome.next.injEq] at he
    subst he
    split
    · exact h.turns.sendFrame_kept _ (h.turns.sendFrame_kept _ (h.turns.sendFrame_kept _ (h.exchange_kept _
        (h.port (i := .querySample) rfl nofun hs rfl))))
    · exact hs
  case resetPulse =>
    simp only [exec, execResetPulse, Host.Outcome.next.injEq] at he
    subst he
    split
    · exact h.turns.settleFor_kept 40 (h.port (i := .reset) rfl nofun hs rfl)
    · exact hs
  case rpt p => exact absurd rfl (hp p)
  all_goals exact h.port rfl hi hs he

/-- What the offer of a report keeps as well, every instruction but `hw_reset` keeps. -/
theorem KeptByRows.exec_kept (h : KeptByRows P) {i : Instr} {s t : State} (hi : i ≠ .hwReset) (hs : P s)
    (he : exec i s = .next t) : P t := by
  by_cases hp : ∀ p, i ≠ .rpt p
  · exact h.wire_kept hi hp hs he
  · push Not at hp
    obtain ⟨p, rfl⟩ := hp
    simp only [exec, execRpt, Host.Outcome.next.injEq] at he
    subst he
    split
    · exact hs
    · rename_i ha
      exact h.report p (by simpa using ha) hs

/-- What a step is: the entry in front, on the state with the strobes over; or, with nothing placed, a pending EDGE, or
the sequencer's turn. -/
theorem step_cases {s t : State} (h : step s = .next t) :
    (∃ e rest, s.inputs = e :: rest ∧ takeInput e (afterFetch rest s) = .next t) ∨
    (s.inputs = [] ∧ edgeEnabled s = true ∧ exec .edge (clearStrobes s) = .next t) ∨
    (s.inputs = [] ∧ edgeEnabled s = false ∧ t = seqStep (clearStrobes s)) := by
  have hc : edgeEnabled (clearStrobes s) = edgeEnabled s := rfl
  cases hi : s.inputs with
  | cons e rest => exact .inl ⟨e, rest, rfl, by simpa [step, hi] using h⟩
  | nil =>
    simp only [step, hi, ownTurn, hc, Host.Outcome.next.injEq] at h
    cases he : edgeEnabled s
    · exact .inr (.inr ⟨rfl, rfl, by simpa [he] using h.symm⟩)
    · refine .inr (.inl ⟨rfl, rfl, ?_⟩)
      simpa [exec, execEdge, edgeStep, hc, he] using h

/-- What an entry is: a decoded row or a tick, which is an instruction; the device; the sink; the delay source; or a
turn. -/
theorem takeInput_cases {e : Input} {s t : State} (h : takeInput e s = .next t) :
    (∃ i, rowOf s.cfg e = some i ∧ exec i s = .next t) ∨ (∃ c d, e = .device c d ∧ t = setDevice c d s) ∨
    (∃ a, e = .sink a ∧ t = { s with rptResult := a }) ∨ (e = .delayDone ∧ t = delayDone s) ∨
    (e = .seqTurn ∧ t = seqStep s) := by
  cases e with
  | word bytes =>
    simp only [takeInput, runWord] at h
    split at h
    · rename_i i more hd
      exact .inl ⟨i, by simp [rowOf, hd], h⟩
    · cases h
  | tick => exact .inl ⟨_, rfl, h⟩
  | device c d => exact .inr (.inl ⟨c, d, rfl, by simpa [takeInput] using h.symm⟩)
  | sink a => exact .inr (.inr (.inl ⟨a, rfl, by simpa [takeInput] using h.symm⟩))
  | delayDone => exact .inr (.inr (.inr (.inl ⟨rfl, by simpa [takeInput] using h.symm⟩)))
  | seqTurn => exact .inr (.inr (.inr (.inr ⟨rfl, by simpa [takeInput] using h.symm⟩)))

/-- What every single move, a sink answer and the end of the strobes keep, every step that takes no `hw_reset`
keeps. -/
theorem KeptByRows.step_kept (h : KeptByRows P) (hk : ∀ (a : SinkAnswer) {s : State}, P s → P { s with rptResult := a })
    {s t : State} (hs : ∀ l, P (afterFetch l s)) (he : step s = .next t)
    (hr : ∀ e rest, s.inputs = e :: rest → rowOf s.cfg e ≠ some .hwReset) : P t := by
  rcases step_cases he with ⟨e, rest, hi, he⟩ | ⟨hi, -, he⟩ | ⟨hi, -, rfl⟩
  · rcases takeInput_cases he with ⟨i, hrow, he⟩ | ⟨c, d, -, rfl⟩ | ⟨a, -, rfl⟩ | ⟨-, rfl⟩ | ⟨-, rfl⟩
    · refine h.exec_kept ?_ (hs rest) he
      rintro rfl
      exact hr e rest hi hrow
    · exact h.device c d (hs rest)
    · exact hk a (hs rest)
    · exact h.delay (hs rest)
    · exact h.turn (hs rest)
  · have := hs []
    rw [show afterFetch [] s = clearStrobes s by simp [afterFetch, clearStrobes, ← hi]] at this
    exact h.exec_kept (i := .edge) nofun this he
  · have := hs []
    rw [show afterFetch [] s = clearStrobes s by simp [afterFetch, clearStrobes, ← hi]] at this
    exact h.turn this

/-- What `hw_reset` keeps as well, every step keeps. -/
theorem KeptByRows.every_step_kept (h : KeptByRows P) (hw : ∀ {s : State}, P s → P (hardwareReset s))
    (hk : ∀ (a : SinkAnswer) {s : State}, P s → P { s with rptResult := a }) {s t : State}
    (hs : ∀ l, P (afterFetch l s)) (he : step s = .next t) : P t := by
  by_cases hr : ∀ e rest, s.inputs = e :: rest → rowOf s.cfg e ≠ some .hwReset
  · exact h.step_kept hk hs he hr
  · push Not at hr
    obtain ⟨e, rest, hi, hrow⟩ := hr
    rcases step_cases he with ⟨e', rest', hi', he⟩ | ⟨hi', -⟩ | ⟨hi', -⟩
    · rw [hi] at hi'
      obtain ⟨rfl, rfl⟩ := List.cons.inj hi'
      rcases takeInput_cases he with ⟨i, hrow', he⟩ | ⟨c, d, rfl, -⟩ | ⟨a, rfl, -⟩ | ⟨rfl, -⟩ | ⟨rfl, -⟩
      · have : i = .hwReset := Option.some.inj (hrow'.symm.trans hrow)
        subst this
        simp only [exec, execHwReset, Host.Outcome.next.injEq] at he
        subst he
        exact hw (hs rest)
      all_goals simp [rowOf] at hrow
    all_goals rw [hi] at hi'; cases hi'

theorem run_unfold (M : Host.Core) (n : Nat) (s : M.State) : M.run (n + 1) s =
    match M.step s with
    | .next u => M.run n u
    | .fault r => .fault r
    | .refused r => .refused r :=
  rfl

/-- A longer run is one step and the rest. -/
theorem run_succ {n : Nat} {s t : State} (h : Host.Core.run Sys2Proof.core (n + 1) s = Host.Outcome.next t) :
    ∃ u, step s = .next u ∧ Host.Core.run Sys2Proof.core n u = Host.Outcome.next t := by
  have h' := (run_unfold Sys2Proof.core n s).symm.trans h
  split at h'
  · exact ⟨_, ‹_›, h'⟩
  · cases h'
  · cases h'

/-- No instruction stops: every one answers a next state. -/
theorem exec_answers (i : Instr) (s : State) : ∃ t, exec i s = .next t := by
  cases i <;> exact ⟨_, rfl⟩

end Sys2Proof.Machine
end

