-- ==== Sys2Proof/Laws/PerInstr.lean ====
section
/-! SUPPORT. Statements made per instruction: the family `EncodeFits`. -/

/-- The word of `i` is not empty and fits the longest word. -/
def Sys2Proof.Laws.EncodeFits.Statement (i : Sys2Proof.Instr) : Prop :=
  1 ≤ (Sys2Proof.encode i).length ∧ (Sys2Proof.encode i).length ≤ Sys2Proof.maxWordBytes

namespace Sys2Proof.Laws

theorem EncodeFits.writeByte (value : Byte) : EncodeFits.Statement (.writeByte value) :=
  ⟨Nat.le_of_ble_eq_true rfl, Nat.le_of_ble_eq_true rfl⟩

theorem EncodeFits.readByte : EncodeFits.Statement .readByte :=
  ⟨Nat.le_of_ble_eq_true rfl, Nat.le_of_ble_eq_true rfl⟩

theorem EncodeFits.reset : EncodeFits.Statement .reset :=
  ⟨Nat.le_of_ble_eq_true rfl, Nat.le_of_ble_eq_true rfl⟩

theorem EncodeFits.writeRam (location value : Byte) : EncodeFits.Statement (.writeRam location value) :=
  ⟨Nat.le_of_ble_eq_true rfl, Nat.le_of_ble_eq_true rfl⟩

theorem EncodeFits.setSensitivityFactor (value : Byte) : EncodeFits.Statement (.setSensitivityFactor value) :=
  ⟨Nat.le_of_ble_eq_true rfl, Nat.le_of_ble_eq_true rfl⟩

theorem EncodeFits.enableStreaming : EncodeFits.Statement .enableStreaming :=
  ⟨Nat.le_of_ble_eq_true rfl, Nat.le_of_ble_eq_true rfl⟩

theorem EncodeFits.querySample : EncodeFits.Statement .querySample :=
  ⟨Nat.le_of_ble_eq_true rfl, Nat.le_of_ble_eq_true rfl⟩

theorem EncodeFits.nop : EncodeFits.Statement .nop :=
  ⟨Nat.le_of_ble_eq_true rfl, Nat.le_of_ble_eq_true rfl⟩

theorem EncodeFits.reservedCmd (code : BitVec 4) : EncodeFits.Statement (.reservedCmd code) :=
  ⟨Nat.le_of_ble_eq_true rfl, Nat.le_of_ble_eq_true rfl⟩

theorem EncodeFits.edge : EncodeFits.Statement .edge :=
  ⟨Nat.le_of_ble_eq_true rfl, Nat.le_of_ble_eq_true rfl⟩

theorem EncodeFits.frameStart : EncodeFits.Statement .frameStart :=
  ⟨Nat.le_of_ble_eq_true rfl, Nat.le_of_ble_eq_true rfl⟩

theorem EncodeFits.tickStream : EncodeFits.Statement .tickStream :=
  ⟨Nat.le_of_ble_eq_true rfl, Nat.le_of_ble_eq_true rfl⟩

theorem EncodeFits.tickPoll : EncodeFits.Statement .tickPoll :=
  ⟨Nat.le_of_ble_eq_true rfl, Nat.le_of_ble_eq_true rfl⟩

theorem EncodeFits.hwReset : EncodeFits.Statement .hwReset :=
  ⟨Nat.le_of_ble_eq_true rfl, Nat.le_of_ble_eq_true rfl⟩

theorem EncodeFits.h2d (value : Byte) : EncodeFits.Statement (.h2d value) :=
  ⟨Nat.le_of_ble_eq_true rfl, Nat.le_of_ble_eq_true rfl⟩

theorem EncodeFits.d2h (frame : D2hFrame) : EncodeFits.Statement (.d2h frame) :=
  ⟨Nat.le_of_ble_eq_true rfl, Nat.le_of_ble_eq_true rfl⟩

theorem EncodeFits.mov (state x y : D2hFrame) : EncodeFits.Statement (.mov state x y) :=
  ⟨Nat.le_of_ble_eq_true rfl, Nat.le_of_ble_eq_true rfl⟩

theorem EncodeFits.cmdReadData : EncodeFits.Statement .cmdReadData :=
  ⟨Nat.le_of_ble_eq_true rfl, Nat.le_of_ble_eq_true rfl⟩

theorem EncodeFits.cmdRamSelect : EncodeFits.Statement .cmdRamSelect :=
  ⟨Nat.le_of_ble_eq_true rfl, Nat.le_of_ble_eq_true rfl⟩

theorem EncodeFits.cmdRamSet : EncodeFits.Statement .cmdRamSet :=
  ⟨Nat.le_of_ble_eq_true rfl, Nat.le_of_ble_eq_true rfl⟩

theorem EncodeFits.cmdSetStreamMode : EncodeFits.Statement .cmdSetStreamMode :=
  ⟨Nat.le_of_ble_eq_true rfl, Nat.le_of_ble_eq_true rfl⟩

theorem EncodeFits.cmdEnableReporting : EncodeFits.Statement .cmdEnableReporting :=
  ⟨Nat.le_of_ble_eq_true rfl, Nat.le_of_ble_eq_true rfl⟩

theorem EncodeFits.ack (value : Byte) : EncodeFits.Statement (.ack value) :=
  ⟨Nat.le_of_ble_eq_true rfl, Nat.le_of_ble_eq_true rfl⟩

theorem EncodeFits.seqWriteRam (location value ack0 ack1 ack2 ack3 : Byte) : EncodeFits.Statement (.seqWriteRam location value ack0 ack1 ack2 ack3) :=
  ⟨Nat.le_of_ble_eq_true rfl, Nat.le_of_ble_eq_true rfl⟩

theorem EncodeFits.seqEnableStreaming (ack0 ack1 : Byte) : EncodeFits.Statement (.seqEnableStreaming ack0 ack1) :=
  ⟨Nat.le_of_ble_eq_true rfl, Nat.le_of_ble_eq_true rfl⟩

theorem EncodeFits.seqQuery (ack0 state x y : Byte) : EncodeFits.Statement (.seqQuery ack0 state x y) :=
  ⟨Nat.le_of_ble_eq_true rfl, Nat.le_of_ble_eq_true rfl⟩

theorem EncodeFits.resetPulse : EncodeFits.Statement .resetPulse :=
  ⟨Nat.le_of_ble_eq_true rfl, Nat.le_of_ble_eq_true rfl⟩

theorem EncodeFits.rpt (sample : Sample) : EncodeFits.Statement (.rpt sample) :=
  ⟨Nat.le_of_ble_eq_true rfl, Nat.le_of_ble_eq_true rfl⟩

end Sys2Proof.Laws
end

