-- ==== Sys2Proof/Laws/Wire.lean ====
section
/-! SUPPORT. Wire transactions cell by cell, byte frame by byte frame: what the engine and the conforming device do
together in one cell, in one frame, and what the caller of a byte operation does after it. -/

namespace Sys2Proof.Machine

theorem settleFor_more {n : Nat} {s : State} (h : canSettle s = true) : settleFor (n + 1) s = settleFor n (settleStep s) := by
  simp [settleFor, h]

theorem settleFor_rest {n : Nat} {s : State} (h : canSettle s = false) : settleFor n s = s := by
  cases n <;> simp [settleFor, h]

theorem settleFor_add (n m : Nat) (s : State) : settleFor (n + m) s = settleFor m (settleFor n s) := by
  induction n generalizing s with
  | zero => rw [Nat.zero_add]; rfl
  | succ n ih =>
    rw [Nat.add_right_comm]
    cases h : canSettle s
    · simp only [settleFor_rest h]
    · rw [settleFor_more h, settleFor_more h, ih]

theorem edgeEnabled_polling {s : State} (h : s.mode = .polling) : edgeEnabled s = false := by simp [edgeEnabled, h]

theorem setDevice_polling (c d : Drive) (s : State) (h : s.mode = .polling) :
    setDevice c d s = { s with devClock := c, devData := d } := by
  simp [setDevice, detectEdge_polling _ _ h]

theorem setHost_polling (l : Line) (d : Drive) (s : State) (h : s.mode = .polling) :
    setHost l d s = match l with
      | .clock => { s with hostClock := d }
      | .data => { s with hostData := d } := by
  cases l <;> simp [setHost, detectEdge_polling _ _ h]

theorem level_clock (s : State) : level .clock s = (s.hostClock == .rel && s.devClock == .rel) := by
  simp only [level, hostDrive, devDrive]; cases s.hostClock <;> cases s.devClock <;> rfl
theorem level_data (s : State) : level .data s = (s.hostData == .rel && s.devData == .rel) := by
  simp only [level, hostDrive, devDrive]; cases s.hostData <;> cases s.devData <;> rfl
theorem driveOfBit_rel (b : Bool) : (driveOfBit b == .rel) = b := by cases b <;> rfl


/-- An operation in progress in POLLING, with no delay asked for. -/
structure Running (s : State) : Prop where
  busy    : s.busy = true
  alive   : s.aborted = false
  polling : s.mode = .polling
  noDelay : s.dlyReq = false

/-- The start of a `write_byte`, WR0 to WR7, with the device at rest: the engine waits for the device to take the
clock. -/
theorem deviceRests_wr0 {s : State} (h : Running s) (hpc : s.seqPc = .wr0) :
    deviceRests s = { s with
      devClock := .rel, devData := .rel, hostClock := .rel, hostData := .low, tx := callByte s, par := true, bitCnt := 0,
      dlyLen := s.cfg.tPreRelease, dlyDone := false, seqPc := .wr8 } := by
  obtain ⟨hb, ha, hm, hq⟩ := h
  simp [deviceRests, delayStep, requestDelay, endDelay, delayDone, delayLength, release, driveLow, callByte, phase, setDevice_polling, settle, settleFor, canSettle, settleStep, edgeEnabled_polling, seqEnabled, microReady, stepKind, level_clock, delayPending, microStep, goto, setHost_polling, hb, ha, hm, hq, hpc]

/-- At its request to send the engine waits. -/
theorem deviceRests_wr8 {s : State} (h : Running s) (hpc : s.seqPc = .wr8) (hc : s.hostClock = .rel) :
    deviceRests s = { s with devClock := .rel, devData := .rel } := by
  obtain ⟨hb, ha, hm, hq⟩ := h
  simp [deviceRests, phase, setDevice_polling, settle, settleFor, canSettle, edgeEnabled_polling, seqEnabled, microReady, stepKind, level_clock, delayPending, hb, ha, hm, hq, hpc, hc]

/-- The device takes the clock: START, and the first data bit is set. -/
theorem phase_wr8 {s : State} (h : Running s) (hpc : s.seqPc = .wr8) (hc : s.hostClock = .rel) :
    phase .low .rel s = { s with
      devClock := .low, devData := .rel, hostData := driveOfBit (s.tx.getLsbD s.bitCnt.val), seqPc := .wr9b } := by
  obtain ⟨hb, ha, hm, hq⟩ := h
  simp [setData, phase, setDevice_polling, settle, settleFor, canSettle, settleStep, edgeEnabled_polling, seqEnabled, microReady, stepKind, level_clock, delayPending, microStep, goto, setHost_polling, hb, ha, hm, hq, hpc, hc]

/-- A data cell before the last: the device latches it, and the next one is set. -/
theorem latchCell_wr9b {s : State} (h : Running s) (hpc : s.seqPc = .wr9b) (hc : s.hostClock = .rel)
    (hlt : s.bitCnt.val < 7) :
    latchCell s = { s with
      devClock := .low, devData := .rel, devFrame := s.devFrame ++ [s.hostData == .rel],
      par := parityStep s.par (s.tx.getLsbD s.bitCnt.val), bitCnt := s.bitCnt + 1,
      hostData := driveOfBit (s.tx.getLsbD (s.bitCnt + 1).val), seqPc := .wr9b } := by
  obtain ⟨hb, ha, hm, hq⟩ := h
  simp [latchCell, nextBit, setData, hlt, phase, setDevice_polling, settle, settleFor, canSettle, settleStep, edgeEnabled_polling, seqEnabled, microReady, stepKind, level_clock, level_data, delayPending, microStep, goto, setHost_polling, hb, ha, hm, hq, hpc, hc]

/-- The last data cell: the device latches it, and the parity bit is set. -/
theorem latchCell_wr9b_last {s : State} (h : Running s) (hpc : s.seqPc = .wr9b) (hc : s.hostClock = .rel)
    (hlt : ¬ s.bitCnt.val < 7) :
    latchCell s = { s with
      devClock := .low, devData := .rel, devFrame := s.devFrame ++ [s.hostData == .rel],
      par := parityStep s.par (s.tx.getLsbD s.bitCnt.val),
      hostData := driveOfBit (parityStep s.par (s.tx.getLsbD s.bitCnt.val)), seqPc := .wr10b } := by
  obtain ⟨hb, ha, hm, hq⟩ := h
  simp [latchCell, nextBit, setData, hlt, phase, setDevice_polling, settle, settleFor, canSettle, settleStep, edgeEnabled_polling, seqEnabled, microReady, stepKind, level_clock, level_data, delayPending, microStep, goto, setHost_polling, hb, ha, hm, hq, hpc, hc]

/-- The parity cell; then DATA is released, and the engine waits for the acknowledgment. -/
theorem latchCell_wr10b {s : State} (h : Running s) (hpc : s.seqPc = .wr10b) (hc : s.hostClock = .rel) :
    latchCell s = { s with
      devClock := .low, devData := .rel, devFrame := s.devFrame ++ [s.hostData == .rel],
      hostData := .rel, dlyLen := s.cfg.tSettle, dlyDone := false, seqPc := .wr13 } := by
  obtain ⟨hb, ha, hm, hq⟩ := h
  simp [latchCell, delayStep, requestDelay, endDelay, delayDone, delayLength, release, phase, setDevice_polling, settle, settleFor, canSettle, settleStep, edgeEnabled_polling, seqEnabled, microReady, stepKind, level_clock, level_data, delayPending, microStep, goto, setHost_polling, hb, ha, hm, hq, hpc, hc]

/-- The STOP cell: the engine still waits for the acknowledgment. -/
theorem latchCell_wr13 {s : State} (h : Running s) (hpc : s.seqPc = .wr13) (hc : s.hostClock = .rel)
    (hd : s.hostData = .rel) :
    latchCell s = { s with devClock := .low, devData := .rel, devFrame := s.devFrame ++ [true] } := by
  obtain ⟨hb, ha, hm, hq⟩ := h
  simp [latchCell, hd, phase, setDevice_polling, settle, settleFor, canSettle, edgeEnabled_polling, seqEnabled, microReady, stepKind, level_clock, level_data, delayPending, hb, ha, hm, hq, hpc, hc]

/-- The ACK cell: both lines low. -/
theorem phases_wr13 {s : State} (h : Running s) (hpc : s.seqPc = .wr13) (hc : s.hostClock = .rel)
    (hd : s.hostData = .rel) :
    phase .low .low (phase .rel .low (phase .rel .rel s)) =
      { s with devClock := .low, devData := .low, seqPc := .wr14 } := by
  obtain ⟨hb, ha, hm, hq⟩ := h
  simp [hd, phase, setDevice_polling, settle, settleFor, canSettle, settleStep, edgeEnabled_polling, seqEnabled, microReady, stepKind, level_clock, level_data, delayPending, microStep, goto, hb, ha, hm, hq, hpc, hc]

/-- The end of the acknowledgment: WR14, WR15, and what the caller does next. -/
theorem phase_wr14 {s : State} (h : Running s) (hpc : s.seqPc = .wr14) (hc : s.hostClock = .rel)
    (hd : s.hostData = .rel) :
    phase .rel .rel s =
      settleFor 38 (returnToCaller { s with devClock := .rel, devData := .rel, hostClock := .low, seqPc := .wr15 }) := by
  obtain ⟨hb, ha, hm, hq⟩ := h
  rw [phase, settle, setDevice_polling _ _ _ hm]
  rw [settleFor_more, settleFor_more]
  · simp [driveLow, hd, settleStep, edgeEnabled_polling, seqEnabled, microReady, stepKind, level_clock, level_data, microStep, goto, setHost_polling, hb, ha, hm, hq, hpc, hc]
  all_goals simp [hd, canSettle, settleStep, edgeEnabled_polling, seqEnabled, microReady, stepKind, level_clock, level_data, delayPending, microStep, goto, hb, ha, hm, hq, hpc, hc]

/-- The start of a `read_byte`, RD0 to RD2, with the device at rest: the engine waits for the START cell. -/
theorem settleFor_rd0 (n : Nat) {s : State} (h : Running s) (hpc : s.seqPc = .rd0) (hc : s.devClock = .rel) :
    settleFor (n + 5) s = { s with
      hostClock := .rel, hostData := .rel, rx := 0, bitCnt := 0, dlyLen := s.cfg.tSettle, dlyDone := false,
      seqPc := .rd3 } := by
  obtain ⟨hb, ha, hm, hq⟩ := h
  rw [Nat.add_comm n 5, settleFor_add, settleFor_rest]
  all_goals simp [delayStep, requestDelay, endDelay, delayDone, delayLength, release, settleFor, canSettle, settleStep, edgeEnabled_polling, seqEnabled, microReady, stepKind, level_clock, delayPending, microStep, goto, setHost_polling, hb, ha, hm, hq, hpc, hc]

/-- The start of a `write_byte`, as in `deviceRests_wr0`, inside a composite operation. -/
theorem settleFor_wr0 (n : Nat) {s : State} (h : Running s) (hpc : s.seqPc = .wr0) (hc : s.devClock = .rel) :
    settleFor (n + 14) s = { s with
      hostClock := .rel, hostData := .low, tx := callByte s, par := true, bitCnt := 0,
      dlyLen := s.cfg.tPreRelease, dlyDone := false, seqPc := .wr8 } := by
  obtain ⟨hb, ha, hm, hq⟩ := h
  rw [Nat.add_comm n 14, settleFor_add, settleFor_rest]
  all_goals simp [delayStep, requestDelay, endDelay, delayDone, delayLength, release, driveLow, callByte, settleFor, canSettle, settleStep, edgeEnabled_polling, seqEnabled, microReady, stepKind, level_clock, delayPending, microStep, goto, setHost_polling, hb, ha, hm, hq, hpc, hc]

/-- A `read_byte` waits for the START cell. -/
theorem deviceRests_rd3 {s : State} (h : Running s) (hpc : s.seqPc = .rd3) (hc : s.hostClock = .rel) :
    deviceRests s = { s with devClock := .rel, devData := .rel } := by
  obtain ⟨hb, ha, hm, hq⟩ := h
  simp [deviceRests, phase, setDevice_polling, settle, settleFor, canSettle, edgeEnabled_polling, seqEnabled, microReady, stepKind, level_clock, delayPending, hb, ha, hm, hq, hpc, hc]

/-- The START cell of a byte frame in a `read_byte`. -/
theorem sendCell_rd3 (b : Bool) {s : State} (h : Running s) (hpc : s.seqPc = .rd3) (hc : s.hostClock = .rel) :
    sendCell b s = { s with
      devClock := .rel, devData := driveOfBit b, dlyLen := s.cfg.tGuard, dlyDone := false, seqPc := .rd6a } := by
  obtain ⟨hb, ha, hm, hq⟩ := h
  simp [sendCell, delayStep, requestDelay, endDelay, delayDone, delayLength, phase, setDevice_polling, settle, settleFor, canSettle, settleStep, edgeEnabled_polling, seqEnabled, microReady, stepKind, level_clock, delayPending, microStep, goto, hb, ha, hm, hq, hpc, hc]

/-- A data cell before the last in a `read_byte`. -/
theorem sendCell_rd6a (b : Bool) {s : State} (h : Running s) (hpc : s.seqPc = .rd6a) (hc : s.hostClock = .rel)
    (hd : s.hostData = .rel) (hlt : s.bitCnt.val < 7) :
    sendCell b s = { s with
      devClock := .rel, devData := driveOfBit b, rx := setBit s.rx s.bitCnt.val b, bitCnt := s.bitCnt + 1,
      seqPc := .rd6a } := by
  obtain ⟨hb, ha, hm, hq⟩ := h
  simp [sendCell, nextBit, hlt, hd, phase, setDevice_polling, settle, settleFor, canSettle, settleStep, edgeEnabled_polling, seqEnabled, microReady, stepKind, level_clock, level_data, driveOfBit_rel, delayPending, microStep, goto, hb, ha, hm, hq, hpc, hc]

/-- The last data cell in a `read_byte`. -/
theorem sendCell_rd6a_last (b : Bool) {s : State} (h : Running s) (hpc : s.seqPc = .rd6a) (hc : s.hostClock = .rel)
    (hd : s.hostData = .rel) (hlt : ¬ s.bitCnt.val < 7) :
    sendCell b s = { s with
      devClock := .rel, devData := driveOfBit b, rx := setBit s.rx s.bitCnt.val b, seqPc := .rd7a } := by
  obtain ⟨hb, ha, hm, hq⟩ := h
  simp [sendCell, nextBit, hlt, hd, phase, setDevice_polling, settle, settleFor, canSettle, settleStep, edgeEnabled_polling, seqEnabled, microReady, stepKind, level_clock, level_data, driveOfBit_rel, delayPending, microStep, goto, hb, ha, hm, hq, hpc, hc]

/-- The parity cell in a `read_byte`, passed unread. -/
theorem sendCell_rd7a (b : Bool) {s : State} (h : Running s) (hpc : s.seqPc = .rd7a) (hc : s.hostClock = .rel) :
    sendCell b s = { s with devClock := .rel, devData := driveOfBit b, seqPc := .rd8a } := by
  obtain ⟨hb, ha, hm, hq⟩ := h
  simp [sendCell, phase, setDevice_polling, settle, settleFor, canSettle, settleStep, edgeEnabled_polling, seqEnabled, microReady, stepKind, level_clock, delayPending, microStep, goto, hb, ha, hm, hq, hpc, hc]

/-- The STOP cell in a `read_byte`, passed unread, RD9, RD10, and what the caller does next. -/
theorem sendCell_rd8a (b : Bool) {s : State} (h : Running s) (hpc : s.seqPc = .rd8a) (hc : s.hostClock = .rel)
    (hd : s.hostData = .rel) :
    sendCell b s =
      settleFor 37 (returnToCaller (keepReadByte { s with
        devClock := .rel, devData := driveOfBit b, hostClock := .low, seqPc := .rd10 })) := by
  obtain ⟨hb, ha, hm, hq⟩ := h
  have h2 : phase .low (driveOfBit b) (phase .rel (driveOfBit b) s) =
      { s with devClock := .low, devData := driveOfBit b, seqPc := .rd8b } := by
    simp [hd, phase, setDevice_polling, settle, settleFor, canSettle, settleStep, edgeEnabled_polling, seqEnabled, microReady, stepKind, level_clock, delayPending, microStep, goto, hb, ha, hm, hq, hpc, hc]
  rw [sendCell, h2, phase, settle, setDevice_polling _ _ _ (by simpa using hm)]
  rw [settleFor_more, settleFor_more, settleFor_more]
  · simp [driveLow, hd, settleStep, edgeEnabled_polling, seqEnabled, microReady, stepKind, level_clock, microStep, goto, setHost_polling, hb, ha, hm, hq, hc]
  all_goals simp [driveLow, hd, canSettle, settleStep, edgeEnabled_polling, seqEnabled, microReady, stepKind, level_clock, delayPending, microStep, goto, setHost_polling, hb, ha, hm, hq, hc]

/-- An idle sequencer, in POLLING, sees nothing of what the device does (R115). -/
theorem phase_idle (c d : Drive) {s : State} (hb : s.busy = false) (hm : s.mode = .polling) :
    phase c d s = { s with devClock := c, devData := d } := by
  simp [phase, setDevice_polling, settle, settleFor, canSettle, edgeEnabled_polling, seqEnabled, delayPending, hb, hm]

theorem bit_succ {b : Fin 8} {k : Nat} (hb : b.val = k) (hk : k < 7) : (b + 1).val = k + 1 := by
  have := b.isLt
  simp [Fin.val_add]
  omega

/-- The eight data cells and the parity cell of a `write_byte`, from the first data cell on. -/
theorem latchCells_wr9b (n : Nat) : ∀ {s : State}, Running s → s.seqPc = .wr9b → s.hostClock = .rel →
    s.bitCnt.val + n = 7 → s.hostData = driveOfBit (s.tx.getLsbD s.bitCnt.val) →
    s.par = parityAfter s.tx s.bitCnt.val →
    latchCells (n + 1) s = { s with
      devClock := .low, devData := .rel, devFrame := s.devFrame ++ (List.range' s.bitCnt.val (n + 1)).map s.tx.getLsbD,
      par := oddParity s.tx, bitCnt := 7, hostData := driveOfBit (oddParity s.tx), seqPc := .wr10b } := by
  induction n with
  | zero =>
    intro s h hpc hc hn hd hp
    have h7 : s.bitCnt = 7 := Fin.ext (by simpa using hn)
    have hpar : parityStep s.par (s.tx.getLsbD s.bitCnt.val) = oddParity s.tx := by
      rw [hp, h7, ← parityAfter_eight]; rfl
    rw [latchCells, latchCells, latchCell_wr9b_last h hpc hc (by omega), hpar]
    simp [hd, driveOfBit_rel, h7, List.range']
  | succ n ih =>
    intro s h hpc hc hn hd hp
    have hv : (s.bitCnt + 1).val = s.bitCnt.val + 1 := bit_succ rfl (by omega)
    rw [latchCells, latchCell_wr9b h hpc hc (by omega), ih]
    · simp [hd, driveOfBit_rel, hv, List.range'_succ]
    · exact ⟨h.busy, h.alive, h.polling, h.noDelay⟩
    · rfl
    · exact hc
    · simp [hv]; omega
    · rfl
    · simp [hv, parityAfter, hp]

/-- What the device latches of a frame: the data bits, the parity bit and the released stop. -/
theorem latchedCells_eq (v : Byte) :
    latchedCells v = (List.range' 0 8).map v.getLsbD ++ [oddParity v] ++ [true] := by
  revert v; decide

/-- The frame of a `write_byte` that waits at its request to send, up to the end of the acknowledgment's low
phase (R331). -/
theorem clockFrame_wr8 {s : State} (h : Running s) (hpc : s.seqPc = .wr8) (hc : s.hostClock = .rel)
    (hb : s.bitCnt = 0) (hp : s.par = true) :
    clockFrame s = phase .rel .rel { s with
      devClock := .low, devData := .low, devFrame := latchedCells s.tx, par := oddParity s.tx, bitCnt := 7,
      hostData := .rel, dlyLen := s.cfg.tSettle, dlyDone := false, seqPc := .wr14 } := by
  have h' : ∀ {t : State}, t.busy = s.busy → t.aborted = s.aborted → t.mode = s.mode → t.dlyReq = s.dlyReq →
      Running t := fun h1 h2 h3 h4 => ⟨h1.trans h.busy, h2.trans h.alive, h3.trans h.polling, h4.trans h.noDelay⟩
  have hadd : ∀ (n m : Nat) (t : State), latchCells (n + m) t = latchCells m (latchCells n t) := by
    intro n m
    induction n with
    | zero => intro t; rw [Nat.zero_add]; rfl
    | succ n ih => intro t; rw [Nat.add_right_comm, latchCells, latchCells, ih]
  have e1 : phase .low .rel { s with devFrame := [] } = { s with
      devFrame := [], devClock := .low, devData := .rel, hostData := driveOfBit (s.tx.getLsbD s.bitCnt.val),
      seqPc := .wr9b } := phase_wr8 (h' rfl rfl rfl rfl) hpc hc
  have e2 := latchCells_wr9b 7 (s := { s with
      devFrame := [], devClock := .low, devData := .rel, hostData := driveOfBit (s.tx.getLsbD s.bitCnt.val),
      seqPc := .wr9b }) (h' rfl rfl rfl rfl) rfl hc (by simp [hb]) rfl (by simp [hb, hp, parityAfter])
  simp only [hb, Fin.val_zero, List.nil_append] at e1 e2
  have e3 := latchCell_wr10b (s := { s with
      devClock := .low, devData := .rel, devFrame := (List.range' 0 8).map s.tx.getLsbD, par := oddParity s.tx,
      bitCnt := 7, hostData := driveOfBit (oddParity s.tx), seqPc := .wr10b }) (h' rfl rfl rfl rfl) rfl hc
  have e4 := latchCell_wr13 (s := { s with
      devClock := .low, devData := .rel, devFrame := (List.range' 0 8).map s.tx.getLsbD ++ [oddParity s.tx],
      par := oddParity s.tx, bitCnt := 7, hostData := .rel, dlyLen := s.cfg.tSettle, dlyDone := false,
      seqPc := .wr13 }) (h' rfl rfl rfl rfl) rfl hc rfl
  have e5 := phases_wr13 (s := { s with
      devClock := .low, devData := .rel, devFrame := latchedCells s.tx, par := oddParity s.tx, bitCnt := 7,
      hostData := .rel, dlyLen := s.cfg.tSettle, dlyDone := false, seqPc := .wr13 }) (h' rfl rfl rfl rfl) rfl hc rfl
  simp only [driveOfBit_rel] at e3
  rw [latchedCells_eq] at e5
  simp only [List.append_assoc] at e4 e5
  simp only [clockFrame, hb, e1, latchedCells_eq]
  rw [show latchCells 10 = latchCells ((7 + 1) + 2) from rfl, hadd, e2, latchCells, latchCells, latchCells, e3]
  simp only [List.append_assoc]
  rw [e4, e5]

/-- The data cells of a byte in a `read_byte`, from bit `bit_cnt` on. -/
theorem sendBits_rd6a (v : Byte) (n : Nat) : ∀ {s : State}, Running s → s.seqPc = .rd6a → s.hostClock = .rel →
    s.hostData = .rel → s.bitCnt.val + n = 7 →
    sendBits v (n + 1) s.bitCnt.val s = { s with
      devClock := .rel, devData := driveOfBit (v.getLsbD 7), bitCnt := 7, seqPc := .rd7a,
      rx := (List.range' s.bitCnt.val (n + 1)).foldl (fun r i => setBit r i (v.getLsbD i)) s.rx } := by
  induction n with
  | zero =>
    intro s h hpc hc hd hn
    have h7 : s.bitCnt = 7 := Fin.ext (by simpa using hn)
    rw [sendBits, sendBits, sendCell_rd6a_last _ h hpc hc hd (by omega)]
    simp [h7, List.range']
  | succ n ih =>
    intro s h hpc hc hd hn
    have hv : (s.bitCnt + 1).val = s.bitCnt.val + 1 := bit_succ rfl (by omega)
    rw [sendBits, sendCell_rd6a _ h hpc hc hd (by omega), ← hv]
    rw [ih (s := { s with
        devClock := .rel, devData := driveOfBit (v.getLsbD s.bitCnt.val),
        rx := setBit s.rx s.bitCnt.val (v.getLsbD s.bitCnt.val), bitCnt := s.bitCnt + 1, seqPc := .rd6a })
      ⟨h.busy, h.alive, h.polling, h.noDelay⟩ rfl hc hd (by simp [hv]; omega)]
    simp [hv, List.range'_succ]

/-- A byte assembled LSB-first from its own bits is that byte (spec/20_memory.md R75). -/
theorem assemble_bits (v : Byte) :
    (List.range' 0 8).foldl (fun r i => setBit r i (v.getLsbD i)) (0 : Byte) = v := by
  revert v; decide

/-- A byte frame that a `read_byte` waits for (R332): the byte is assembled, START, parity and STOP pass unread, and
the caller goes on. -/
theorem sendFrame_rd3 (f : D2hFrame) {s : State} (h : Running s) (hpc : s.seqPc = .rd3) (hc : s.hostClock = .rel)
    (hd : s.hostData = .rel) (hb : s.bitCnt = 0) (hr : s.rx = 0) :
    sendFrame f s = deviceRests (settleFor 37 (returnToCaller (keepReadByte { s with
      devClock := .rel, devData := driveOfBit f.stop, hostClock := .low, rx := f.byte, bitCnt := 7,
      dlyLen := s.cfg.tGuard, dlyDone := false, seqPc := .rd10 }))) := by
  have h' : ∀ {t : State}, t.busy = s.busy → t.aborted = s.aborted → t.mode = s.mode → t.dlyReq = s.dlyReq →
      Running t := fun h1 h2 h3 h4 => ⟨h1.trans h.busy, h2.trans h.alive, h3.trans h.polling, h4.trans h.noDelay⟩
  have hrel : hostReleased { s with devClock := .rel, devData := .rel } = true := by simp [hostReleased, hc, hd]
  have e1 := sendCell_rd3 f.start (s := { s with devClock := .rel, devData := .rel }) (h' rfl rfl rfl rfl) hpc hc
  have e2 := sendBits_rd6a f.byte 7 (s := { s with
      devClock := .rel, devData := driveOfBit f.start, dlyLen := s.cfg.tGuard, dlyDone := false, seqPc := .rd6a })
    (h' rfl rfl rfl rfl) rfl hc hd (by simp [hb])
  have ha : (List.range' 0 (7 + 1)).foldl (fun r i => setBit r i (f.byte.getLsbD i)) (0 : Byte) = f.byte :=
    assemble_bits f.byte
  simp only [hb, hr, Fin.val_zero, ha] at e1 e2
  have e3 := sendCell_rd7a f.parity (s := { s with
      devClock := .rel, devData := driveOfBit (f.byte.getLsbD 7), dlyLen := s.cfg.tGuard, dlyDone := false, bitCnt := 7,
      seqPc := .rd7a, rx := f.byte }) (h' rfl rfl rfl rfl) rfl hc
  have e4 := sendCell_rd8a f.stop (s := { s with
      devClock := .rel, devData := driveOfBit f.parity, dlyLen := s.cfg.tGuard, dlyDone := false, bitCnt := 7,
      seqPc := .rd8a, rx := f.byte }) (h' rfl rfl rfl rfl) rfl hc hd
  simp only [sendFrame, deviceRests_rd3 h hpc hc, hrel, if_true, sendCells]
  simp only [hb, hr, e1]
  rw [show sendBits f.byte 8 0 = sendBits f.byte (7 + 1) 0 from rfl, e2, e3, e4]

/-- The sequencer's free: a byte frame of the device is not decoded (R115). -/
theorem sendFrame_idle (f : D2hFrame) {s : State} (hb : s.busy = false) (hm : s.mode = .polling) :
    sendFrame f s = { s with devClock := .rel, devData := .rel } := by
  have hcell : ∀ (b : Bool) (t : State), t.busy = false → t.mode = .polling →
      sendCell b t = { t with devClock := .rel, devData := driveOfBit b } := by
    intro b t hb hm
    simp [sendCell, phase_idle, hb, hm]
  have hbits : ∀ (n i : Nat) (t : State), t.busy = false → t.mode = .polling →
      ∃ c d, sendBits f.byte n i t = { t with devClock := c, devData := d } := by
    intro n
    induction n with
    | zero => intro i t _ _; exact ⟨t.devClock, t.devData, rfl⟩
    | succ n ih =>
      intro i t hb hm
      rw [sendBits, hcell _ _ hb hm]
      exact ih (i + 1) { t with devClock := .rel, devData := driveOfBit (f.byte.getLsbD i) } hb hm
  simp only [sendFrame, deviceRests, phase_idle _ _ hb hm]
  split
  · obtain ⟨c, d, hd⟩ := hbits 8 0 { s with devClock := .rel, devData := driveOfBit f.start } hb hm
    have hp : ∀ c d c' d', phase c d { s with devClock := c', devData := d' } = { s with devClock := c, devData := d } :=
      fun c d c' d' => phase_idle c d hb hm
    have hs : ∀ b c d, sendCell b { s with devClock := c, devData := d } =
        { s with devClock := .rel, devData := driveOfBit b } := fun b c d => hcell b _ hb hm
    simp only [sendCells, deviceRests, hs, hd, hp]
  · rfl

/-- A conforming device answers a request to send (R331); the caller goes on. -/
theorem answerRequest_wr8 {s : State} (h : Running s) (hpc : s.seqPc = .wr8) (hc : s.hostClock = .rel)
    (hd : s.hostData = .low) (hb : s.bitCnt = 0) (hp : s.par = true) :
    answerRequest s = settleFor 38 (returnToCaller { s with
      devClock := .rel, devData := .rel, devFrame := latchedCells s.tx, hostClock := .low, hostData := .rel,
      par := oddParity s.tx, bitCnt := 7, dlyLen := s.cfg.tSettle, dlyDone := false, seqPc := .wr15 }) := by
  have h' : ∀ {t : State}, t.busy = s.busy → t.aborted = s.aborted → t.mode = s.mode → t.dlyReq = s.dlyReq →
      Running t := fun h1 h2 h3 h4 => ⟨h1.trans h.busy, h2.trans h.alive, h3.trans h.polling, h4.trans h.noDelay⟩
  have hr : requestToSend { s with devClock := .rel, devData := .rel } = true := by simp [requestToSend, hc, hd]
  have e1 := clockFrame_wr8 (s := { s with devClock := .rel, devData := .rel }) (h' rfl rfl rfl rfl) hpc hc hb hp
  simp only [answerRequest, deviceRests_wr8 h hpc hc, hr, if_true, e1]
  exact phase_wr14 (h' rfl rfl rfl rfl) rfl hc rfl

/-- Where no byte is requested, a device that answers requests is at rest. -/
theorem answerRequest_none {s : State} (h : requestToSend (deviceRests s) = false) :
    answerRequest s = deviceRests s := by
  simp [answerRequest, h]

/-- The next call of a composite operation. -/
theorem returnToCaller_more {s : State} (h : s.cmdIdx ≠ lastIdx s.seqOp) :
    returnToCaller s = { s with cmdIdx := s.cmdIdx + 1, seqPc := entryLabel s.seqOp (s.cmdIdx + 1) } := by
  simp [returnToCaller, h]

/-- The end of a composite operation. -/
theorem returnToCaller_last {s : State} (h : s.cmdIdx = lastIdx s.seqOp) (ho : s.seqOp ≠ .tickPoll) :
    returnToCaller s = completeCall s := by
  simp only [returnToCaller, h, if_true]

/-- An idle sequencer has nothing to settle, in POLLING. -/
theorem settleFor_idle (n : Nat) {s : State} (hb : s.busy = false) (hm : s.mode = .polling) : settleFor n s = s :=
  settleFor_rest (by simp [canSettle, edgeEnabled_polling hm, seqEnabled, delayPending, hb])

/-- The written byte's end, where a `read_byte` follows. -/
theorem answerRequest_then_read {s : State} (h : Running s) (hpc : s.seqPc = .wr8) (hc : s.hostClock = .rel)
    (hd : s.hostData = .low) (hb : s.bitCnt = 0) (hp : s.par = true) (hi : s.cmdIdx ≠ lastIdx s.seqOp)
    (he : entryLabel s.seqOp (s.cmdIdx + 1) = .rd0) :
    answerRequest s = { s with
      devClock := .rel, devData := .rel, devFrame := latchedCells s.tx, hostClock := .rel, hostData := .rel,
      par := oddParity s.tx, rx := 0, bitCnt := 0, cmdIdx := s.cmdIdx + 1, dlyLen := s.cfg.tSettle,
      dlyDone := false, seqPc := .rd3 } := by
  rw [answerRequest_wr8 h hpc hc hd hb hp, returnToCaller_more]
  · exact settleFor_rd0 33 ⟨h.busy, h.alive, h.polling, h.noDelay⟩ he rfl
  all_goals exact hi

/-- The read byte's end, where a `write_byte` follows: the caller goes on to the next request to send. -/
theorem sendFrame_then_write (f : D2hFrame) {s : State} (h : Running s) (hpc : s.seqPc = .rd3)
    (hc : s.hostClock = .rel) (hd : s.hostData = .rel) (hb : s.bitCnt = 0) (hr : s.rx = 0)
    (ho : s.seqOp ≠ .querySample ∧ s.seqOp ≠ .tickPoll) (hi : s.cmdIdx ≠ lastIdx s.seqOp)
    (he : entryLabel s.seqOp (s.cmdIdx + 1) = .wr0) :
    sendFrame f s = { s with
      devClock := .rel, devData := .rel, hostClock := .rel, hostData := .low, rx := f.byte,
      tx := callByte { s with cmdIdx := s.cmdIdx + 1 }, par := true, bitCnt := 0, cmdIdx := s.cmdIdx + 1,
      dlyLen := s.cfg.tPreRelease, dlyDone := false, seqPc := .wr8 } := by
  have hk : ∀ t : State, t.seqOp = s.seqOp → keepReadByte t = t := by
    intro t ht
    unfold keepReadByte
    split <;> simp_all
  rw [sendFrame_rd3 f h hpc hc hd hb hr, hk, returnToCaller_more]
  any_goals first | rfl | exact hi
  have e := settleFor_wr0 23 (s := { s with
      devClock := .rel, devData := driveOfBit f.stop, hostClock := .low, rx := f.byte, bitCnt := 7,
      dlyLen := s.cfg.tGuard, dlyDone := false, cmdIdx := s.cmdIdx + 1,
      seqPc := entryLabel s.seqOp (s.cmdIdx + 1) }) ⟨h.busy, h.alive, h.polling, h.noDelay⟩ he rfl
  refine (congrArg deviceRests e).trans ?_
  exact deviceRests_wr8 ⟨h.busy, h.alive, h.polling, h.noDelay⟩ rfl rfl

/-- The read byte's end, where another `read_byte` follows. -/
theorem sendFrame_then_read (f : D2hFrame) {s : State} (h : Running s) (hpc : s.seqPc = .rd3)
    (hc : s.hostClock = .rel) (hd : s.hostData = .rel) (hb : s.bitCnt = 0) (hr : s.rx = 0)
    (hi : s.cmdIdx ≠ lastIdx s.seqOp) (he : entryLabel s.seqOp (s.cmdIdx + 1) = .rd0) :
    sendFrame f s = { s with
      devClock := .rel, devData := .rel, hostClock := .rel, hostData := .rel, rx := 0, bitCnt := 0,
      q := (keepReadByte { s with rx := f.byte }).q, cmdIdx := s.cmdIdx + 1, dlyLen := s.cfg.tSettle, dlyDone := false, seqPc := .rd3 } := by
  have hk : ∀ t : State, keepReadByte t = { t with q := (keepReadByte t).q } := by
    intro t
    unfold keepReadByte
    split <;> (try split) <;> (try split) <;> (try split) <;> rfl
  have hq : ∀ t : State, t.seqOp = s.seqOp → t.cmdIdx = s.cmdIdx → t.q = s.q → t.rx = f.byte →
      (keepReadByte t).q = (keepReadByte { s with rx := f.byte }).q := by
    intro t h1 h2 h3 h4
    simp only [keepReadByte, h1, h2, h3, h4]
    split <;> (try split) <;> (try split) <;> (try split) <;> simp_all
  rw [sendFrame_rd3 f h hpc hc hd hb hr, hk, hq, returnToCaller_more]
  any_goals first | rfl | exact hi
  have e := settleFor_rd0 32 (s := { s with
      devClock := .rel, devData := driveOfBit f.stop, hostClock := .low, rx := f.byte, bitCnt := 7,
      dlyLen := s.cfg.tGuard, dlyDone := false, cmdIdx := s.cmdIdx + 1, q := (keepReadByte { s with rx := f.byte }).q,
      seqPc := entryLabel s.seqOp (s.cmdIdx + 1) }) ⟨h.busy, h.alive, h.polling, h.noDelay⟩ he rfl
  refine (congrArg deviceRests e).trans ?_
  exact deviceRests_rd3 ⟨h.busy, h.alive, h.polling, h.noDelay⟩ rfl rfl

/-- The last byte of an operation other than `enable_streaming` and `TICK_POLL`, read. -/
theorem sendFrame_then_complete (f : D2hFrame) {s : State} (h : Running s) (hpc : s.seqPc = .rd3)
    (hc : s.hostClock = .rel) (hd : s.hostData = .rel) (hb : s.bitCnt = 0) (hr : s.rx = 0)
    (hi : s.cmdIdx = lastIdx s.seqOp) (ho : s.seqOp ≠ .tickPoll) :
    sendFrame f s = { s with
      devClock := .rel, devData := .rel, hostClock := .low, rx := f.byte, bitCnt := 7,
      q := (keepReadByte { s with rx := f.byte }).q,
      busy := false, seqOp := .idle, seqPc := .idle, rspValid := true, dlyLen := s.cfg.tGuard, dlyDone := false } := by
  have hk : ∀ t : State, keepReadByte t = { t with q := (keepReadByte t).q } := by
    intro t
    unfold keepReadByte
    split <;> (try split) <;> (try split) <;> (try split) <;> rfl
  have hq : ∀ t : State, t.seqOp = s.seqOp → t.cmdIdx = s.cmdIdx → t.q = s.q → t.rx = f.byte →
      (keepReadByte t).q = (keepReadByte { s with rx := f.byte }).q := by
    intro t h1 h2 h3 h4
    simp only [keepReadByte, h1, h2, h3, h4]
    split <;> (try split) <;> (try split) <;> (try split) <;> simp_all
  rw [sendFrame_rd3 f h hpc hc hd hb hr, hk, hq, returnToCaller_last, settleFor_idle, deviceRests,
    phase_idle]
  all_goals first | rfl | exact h.polling | exact hi | exact ho

/-- The written byte's end, where it is the operation. -/
theorem answerRequest_then_complete {s : State} (h : Running s) (hpc : s.seqPc = .wr8) (hc : s.hostClock = .rel)
    (hd : s.hostData = .low) (hb : s.bitCnt = 0) (hp : s.par = true) (hi : s.cmdIdx = lastIdx s.seqOp)
    (ho : s.seqOp ≠ .tickPoll) :
    answerRequest s = { s with
      devClock := .rel, devData := .rel, devFrame := latchedCells s.tx, hostClock := .low, hostData := .rel,
      par := oddParity s.tx, bitCnt := 7, busy := false, seqOp := .idle, seqPc := .idle, rspValid := true,
      dlyLen := s.cfg.tSettle, dlyDone := false } := by
  rw [answerRequest_wr8 h hpc hc hd hb hp, returnToCaller_last, settleFor_idle]
  all_goals first | rfl | exact h.polling | exact hi | exact ho

/-! ### Frames in STREAMING -/

/-- A device that drives nothing low on CLOCK makes no edge, and an engine that is not busy has nothing to do. -/
theorem phase_no_edge (d : Drive) {s : State} (he : s.edgePending = false) (hb : s.busy = false)
    (hc : s.hostClock = .rel) : phase .rel d s = { s with devClock := .rel, devData := d } := by
  have hs : setDevice .rel d s = { s with devClock := .rel, devData := d } := by
    simp [setDevice, detectEdge, level_clock, hc]
  rw [phase, settle, hs, settleFor_rest]
  simp [canSettle, edgeEnabled, seqEnabled, delayPending, he, hb]

theorem phase_streaming_rel (d : Drive) {s : State} (h : Sampling s) :
    phase .rel d s = { s with devClock := .rel, devData := d } :=
  phase_no_edge d h.taken h.free h.clockRel

/-- A falling edge is taken at once: one `EDGE`, with DATA as the device drives it. -/
theorem phase_streaming_low (b : Bool) {s : State} (h : Sampling s) (hc' : s.devClock = .rel) :
    phase .low (driveOfBit b) s =
      advanceCell (insertCell b { s with devClock := .low, devData := driveOfBit b, edgePending := false }) := by
  obtain ⟨hm, ha, hb, he, hd, hc, hr⟩ := h
  have hs : setDevice .low (driveOfBit b) s =
      { s with devClock := .low, devData := driveOfBit b, edgePending := true } := by
    simp [setDevice, detectEdge, level_clock, hc, hc', hm, ha]
  have h1 : edgeEnabled { s with devClock := .low, devData := driveOfBit b, edgePending := true } = true := by
    simp [edgeEnabled, dispatcherHoldsCache, hm, ha, hd]
  have h2 : edgeAction { s with devClock := .low, devData := driveOfBit b, edgePending := true } =
      advanceCell (insertCell b { s with devClock := .low, devData := driveOfBit b, edgePending := false }) := by
    simp [edgeAction, level_data, hr, driveOfBit_rel]
  have h3 : ∀ t : State, (advanceCell (insertCell b t)).edgePending = t.edgePending ∧
      (advanceCell (insertCell b t)).busy = t.busy := by
    intro t
    unfold advanceCell insertCell
    split <;> split <;> (try split) <;> exact ⟨rfl, rfl⟩
  rw [phase, settle, hs, show (40 : Nat) = 39 + 1 from rfl, settleFor_more (by simp [canSettle, h1]), settleStep,
    if_pos h1, h2, settleFor_rest]
  simp [canSettle, edgeEnabled, seqEnabled, delayPending, h3, hb]

/-- One cell in STREAMING: one `EDGE`. -/
theorem sendCell_streaming (b : Bool) {s : State} (h : Sampling s) :
    sendCell b s = { advanceCell (insertCell b s) with devClock := .rel, devData := driveOfBit b } := by
  have hu : ∀ t : State, Sampling t → Sampling (advanceCell (insertCell b t)) := by
    rintro t ⟨h1, h2, h3, h4, h5, h6, h7⟩
    unfold advanceCell insertCell
    split <;> split <;> (try split) <;> exact ⟨h1, h2, h3, h4, h5, h6, h7⟩
  have hv : ∀ t : State, ∀ c d c' d', { advanceCell (insertCell b { t with devClock := c, devData := d }) with
      devClock := c', devData := d' } = { advanceCell (insertCell b t) with devClock := c', devData := d' } := by
    intro t c d c' d'
    unfold advanceCell insertCell
    split <;> split <;> (try split) <;> simp_all [clearFrame, cachePublish]
  obtain ⟨hm, ha, hb, he, hd, hc, hr⟩ := h
  rw [sendCell, phase_streaming_rel _ ⟨hm, ha, hb, he, hd, hc, hr⟩, phase_streaming_low]
  · rw [phase_streaming_rel]
    · have := hv s .low (driveOfBit b) .rel (driveOfBit b)
      simpa only [he] using this
    · exact hu _ ⟨hm, ha, hb, rfl, hd, hc, hr⟩
  · exact ⟨hm, ha, hb, he, hd, hc, hr⟩
  · rfl

theorem accByte_setAccByte (a : Acc) (i : Fin 3) (v : Byte) : accByte (setAccByte a i v) i = v := by
  match i with
  | 0 => rfl
  | 1 => rfl
  | 2 => rfl

theorem setAccByte_twice (a : Acc) (i : Fin 3) (v w : Byte) : setAccByte (setAccByte a i v) i w = setAccByte a i w := by
  match i with
  | 0 => rfl
  | 1 => rfl
  | 2 => rfl

theorem setAccByte_same (a : Acc) (i : Fin 3) : setAccByte a i (accByte a i) = a := by
  match i with
  | 0 => rfl
  | 1 => rfl
  | 2 => rfl

theorem bitIdx_succ {b : Fin 11} {k : Nat} (hb : b.val = k) (hk : k < 10) : (b + 1).val = k + 1 := by
  have := b.isLt
  simp [Fin.val_add]
  omega

/-- The data cells of a byte in STREAMING, from bit `i` on: the cell of bit `i` is `bit_idx = i + 1` (R204). -/
theorem sendBits_streaming (v : Byte) (n : Nat) : ∀ (i : Nat) {s : State}, Sampling s → s.bitIdx.val = i + 1 →
    i + n ≤ 8 →
    ∃ c d j, j.val = i + n + 1 ∧ sendBits v n i s = { s with
      devClock := c, devData := d, bitIdx := j,
      acc := setAccByte s.acc s.byteIdx
        ((List.range' i n).foldl (fun r k => setBit r k (v.getLsbD k)) (accByte s.acc s.byteIdx)) } := by
  induction n with
  | zero =>
    intro i s h hi hn
    exact ⟨s.devClock, s.devData, s.bitIdx, hi, by simp [sendBits, setAccByte_same]⟩
  | succ n ih =>
    intro i s h hi hn
    have hj := bitIdx_succ hi (by omega)
    have hcell : sendCell (v.getLsbD i) s = { s with
        devClock := .rel, devData := driveOfBit (v.getLsbD i), bitIdx := s.bitIdx + 1,
        acc := setAccByte s.acc s.byteIdx (setBit (accByte s.acc s.byteIdx) i (v.getLsbD i)) } := by
      rw [sendCell_streaming _ h]
      simp [advanceCell, insertCell, hi, show i < 8 by omega, show i + 1 < 10 by omega]
    obtain ⟨h1, h2, h3, h4, h5, h6, h7⟩ := h
    obtain ⟨c, d, j, hjv, he⟩ := ih (i + 1) (s := { s with
        devClock := .rel, devData := driveOfBit (v.getLsbD i), bitIdx := s.bitIdx + 1,
        acc := setAccByte s.acc s.byteIdx (setBit (accByte s.acc s.byteIdx) i (v.getLsbD i)) })
      ⟨h1, h2, h3, h4, h5, h6, h7⟩ hj (by omega)
    refine ⟨c, d, j, by omega, ?_⟩
    rw [sendBits, hcell, he]
    simp [setAccByte_twice, accByte_setAccByte, List.range'_succ]

/-- One byte frame in STREAMING: eleven `EDGE` steps (R205). -/
theorem sendFrame_streaming (f : D2hFrame) {s : State} (h : Sampling s) (hb : s.bitIdx = 0)
    (ha : accByte s.acc s.byteIdx = 0) :
    sendFrame f s =
      if s.byteIdx.val < 2 then { s with
        devClock := .rel, devData := .rel, byteIdx := s.byteIdx + 1,
        acc := setAccByte s.acc s.byteIdx f.byte }
      else { s with
        devClock := .rel, devData := .rel, sample := accSample (setAccByte s.acc s.byteIdx f.byte),
        dataAvailable := true, byteIdx := 0, bitIdx := 0, acc := ⟨0, 0, 0⟩ } := by
  have hcells : ∀ {t : State}, Sampling t → t.bitIdx = 0 → accByte t.acc t.byteIdx = 0 →
      sendCells f t =
        if t.byteIdx.val < 2 then { t with
          devClock := .rel, devData := .rel, byteIdx := t.byteIdx + 1, bitIdx := 0,
          acc := setAccByte t.acc t.byteIdx f.byte }
        else { t with
          devClock := .rel, devData := .rel, sample := accSample (setAccByte t.acc t.byteIdx f.byte),
          dataAvailable := true, byteIdx := 0, bitIdx := 0, acc := ⟨0, 0, 0⟩ } := by
    intro t ht hb ha
    have e1 : sendCell f.start t = { t with
        devClock := .rel, devData := driveOfBit f.start, bitIdx := 1 } := by
      rw [sendCell_streaming _ ht]
      simp [advanceCell, insertCell, hb]
    obtain ⟨h1, h2, h3, h4, h5, h6, h7⟩ := ht
    obtain ⟨c, d, j, hj, e2⟩ := sendBits_streaming f.byte 8 0 (s := { t with
        devClock := .rel, devData := driveOfBit f.start, bitIdx := 1 }) ⟨h1, h2, h3, h4, h5, h6, h7⟩ rfl (by omega)
    simp only [ha, assemble_bits] at e2
    have hj10 : j + 1 = 10 := Fin.ext (by rw [bitIdx_succ hj (by omega)]; rfl)
    have e3 : sendCell f.parity { t with
        devClock := c, devData := d, bitIdx := j, acc := setAccByte t.acc t.byteIdx f.byte } = { t with
        devClock := .rel, devData := driveOfBit f.parity, bitIdx := 10,
        acc := setAccByte t.acc t.byteIdx f.byte } := by
      rw [sendCell_streaming]
      · simp [advanceCell, insertCell, hj, hj10]
      · exact ⟨h1, h2, h3, h4, h5, h6, h7⟩
    have e4 : sendCell f.stop { t with
        devClock := .rel, devData := driveOfBit f.parity, bitIdx := 10,
        acc := setAccByte t.acc t.byteIdx f.byte } =
        if t.byteIdx.val < 2 then { t with
          devClock := .rel, devData := driveOfBit f.stop, byteIdx := t.byteIdx + 1, bitIdx := 0,
          acc := setAccByte t.acc t.byteIdx f.byte }
        else { t with
          devClock := .rel, devData := driveOfBit f.stop, sample := accSample (setAccByte t.acc t.byteIdx f.byte),
          dataAvailable := true, byteIdx := 0, bitIdx := 0, acc := ⟨0, 0, 0⟩ } := by
      rw [sendCell_streaming]
      · by_cases hlt : t.byteIdx.val < 2 <;> simp [advanceCell, insertCell, hlt, clearFrame, cachePublish]
      · exact ⟨h1, h2, h3, h4, h5, h6, h7⟩
    simp only [sendCells, e1, e2, e3, e4, deviceRests]
    split <;> exact phase_streaming_rel _ ⟨h1, h2, h3, h4, h5, h6, h7⟩
  have hrel : hostReleased { s with devClock := .rel, devData := .rel } = true := by
    simp [hostReleased, h.clockRel, h.dataRel]
  simp only [sendFrame, deviceRests, phase_streaming_rel _ h, hrel, if_true]
  obtain ⟨h1, h2, h3, h4, h5, h6, h7⟩ := h
  have e := hcells (t := { s with devClock := .rel, devData := .rel }) ⟨h1, h2, h3, h4, h5, h6, h7⟩ hb ha
  simp only [hb] at e ⊢
  exact e

/-- The end of `enable_streaming`: after its last acknowledgment byte, ES_FINAL (R180). -/
theorem sendFrame_then_final (f : D2hFrame) {s : State} (h : Running s) (hpc : s.seqPc = .rd3)
    (hc : s.hostClock = .rel) (hd : s.hostData = .rel) (hb : s.bitCnt = 0) (hr : s.rx = 0)
    (ho : s.seqOp = .enableStreaming) (hi : s.cmdIdx = 3) :
    sendFrame f s = { s with
      devClock := .rel, devData := .rel, hostClock := .rel, hostData := .rel, rx := f.byte, bitCnt := 7, cmdIdx := 4,
      dlyLen := s.cfg.tGuard, dlyDone := false, mode := .streaming, edgePending := false, byteIdx := 0, bitIdx := 0,
      acc := ⟨0, 0, 0⟩, busy := false, seqOp := .idle, seqPc := .idle, rspValid := true } := by
  have hk : ∀ t : State, t.seqOp = s.seqOp → keepReadByte t = t := by
    intro t ht
    unfold keepReadByte
    split <;> simp_all
  obtain ⟨hbu, ha, hm, hq⟩ := h
  rw [sendFrame_rd3 f ⟨hbu, ha, hm, hq⟩ hpc hc hd hb hr, hk, returnToCaller_more]
  · rw [show (37 : Nat) = 36 + 1 from rfl, settleFor_more, settleStep, if_neg, if_pos, settleFor_rest, deviceRests,
      phase_no_edge]
    all_goals
      simp [canSettle, edgeEnabled, seqEnabled, microReady, stepKind, delayPending, microStep,
        esFinalStep, completeCall, clearFrame, release, setHost_polling, entryLabel, ho, hi, hbu, ha, hm, hq, hd]
  all_goals first | rfl | simp [ho, hi, lastIdx]

/-- The end of `TICK_POLL`: after the last byte, P3 to P6 (spec/43_report_dispatch.md R240), whatever the sink
answers; after INVALID the sequencer stays where it is. -/
theorem sendFrame_then_report (f : D2hFrame) {s : State} (h : Running s) (hpc : s.seqPc = .rd3)
    (hc : s.hostClock = .rel) (hd : s.hostData = .rel) (hb : s.bitCnt = 0) (hr : s.rx = 0)
    (ho : s.seqOp = .tickPoll) (hi : s.cmdIdx = 4) :
    sendFrame f s =
      let q := { s.q with y := f.byte }
      let t := { s with
        devClock := .rel, devData := .rel, hostClock := .low, hostData := .rel, rx := f.byte, bitCnt := 7, q := q,
        dlyLen := s.cfg.tGuard, dlyDone := false, report := formatReport s.cfg q, rptValid := true }
      if s.rptResult = .invalid then { t with aborted := true, seqPc := .p3 }
      else { t with busy := false, dispState := .idle, seqOp := .idle, seqPc := .idle } := by
  obtain ⟨hbu, ha, hm, hq⟩ := h
  rw [sendFrame_rd3 f ⟨hbu, ha, hm, hq⟩ hpc hc hd hb hr]
  have e1 : returnToCaller (keepReadByte { s with
      devClock := .rel, devData := driveOfBit f.stop, hostClock := .low, rx := f.byte, bitCnt := 7,
      dlyLen := s.cfg.tGuard, dlyDone := false, seqPc := .rd10 }) = { s with
      devClock := .rel, devData := driveOfBit f.stop, hostClock := .low, rx := f.byte, bitCnt := 7,
      dlyLen := s.cfg.tGuard, dlyDone := false, seqPc := .p3, q := { s.q with y := f.byte } } := by
    simp [returnToCaller, keepReadByte, lastIdx, ho, hi, goto]
  rw [e1, show (37 : Nat) = 1 + 36 from rfl, settleFor_add]
  have e2 : settleFor 1 { s with
      devClock := .rel, devData := driveOfBit f.stop, hostClock := .low, rx := f.byte, bitCnt := 7,
      dlyLen := s.cfg.tGuard, dlyDone := false, seqPc := .p3, q := { s.q with y := f.byte } } =
      (let t := { s with
        devClock := .rel, devData := driveOfBit f.stop, hostClock := .low, rx := f.byte, bitCnt := 7,
        q := { s.q with y := f.byte }, dlyLen := s.cfg.tGuard, dlyDone := false,
        report := formatReport s.cfg { s.q with y := f.byte }, rptValid := true }
      if s.rptResult = .invalid then { t with aborted := true, seqPc := .p3 } else { t with seqPc := .p6 }) := by
    cases hres : s.rptResult <;>
      simp [settleFor, canSettle, settleStep, edgeEnabled_polling, seqEnabled, microReady, stepKind, microStep,
        setReport, offerReport, sinkSubmit, raiseAbort, goto, hbu, ha, hm]
  rw [e2]
  by_cases hres : s.rptResult = .invalid
  · simp only [hres, if_true]
    rw [settleFor_rest]
    · simp [deviceRests, phase, settle, settleFor, canSettle, edgeEnabled_polling, seqEnabled, delayPending,
        setDevice_polling, hbu, hm, hd]
    · simp [canSettle, edgeEnabled_polling, seqEnabled, delayPending, hm]
  · simp only [hres, if_false]
    rw [show (36 : Nat) = 35 + 1 from rfl, settleFor_more, settleStep, if_neg, if_pos, settleFor_rest, deviceRests,
      phase_idle]
    all_goals
      simp [canSettle, edgeEnabled_polling, seqEnabled, microReady, stepKind, delayPending, microStep, hbu, ha, hm, hd]

/-! ### A call from its first label -/

theorem answerRequest_rests {s : State} (h : deviceRests (deviceRests s) = deviceRests s) :
    answerRequest s = answerRequest (deviceRests s) := by
  simp only [answerRequest, h]

theorem sendFrame_rests (f : D2hFrame) {s : State} (h : deviceRests (deviceRests s) = deviceRests s) :
    sendFrame f s = sendFrame f (deviceRests s) := by
  simp only [sendFrame, h]

/-- A device that answers requests answers the one a `write_byte` comes to. -/
theorem answerRequest_wr0 {s : State} (h : Running s) (hpc : s.seqPc = .wr0) :
    answerRequest s = answerRequest { s with
      devClock := .rel, devData := .rel, hostClock := .rel, hostData := .low, tx := callByte s, par := true,
      bitCnt := 0, dlyLen := s.cfg.tPreRelease, dlyDone := false, seqPc := .wr8 } := by
  rw [answerRequest_rests, deviceRests_wr0 h hpc]
  rw [deviceRests_wr0 h hpc]
  exact deviceRests_wr8 ⟨h.busy, h.alive, h.polling, h.noDelay⟩ rfl rfl

/-- A frame sent to a `read_byte` that has just been started finds it at RD3. -/
theorem sendFrame_rd0 (f : D2hFrame) {s : State} (h : Running s) (hpc : s.seqPc = .rd0) :
    sendFrame f s = sendFrame f { s with
      devClock := .rel, devData := .rel, hostClock := .rel, hostData := .rel, rx := 0, bitCnt := 0,
      dlyLen := s.cfg.tSettle, dlyDone := false, seqPc := .rd3 } := by
  have e : deviceRests s = { s with
      devClock := .rel, devData := .rel, hostClock := .rel, hostData := .rel, rx := 0, bitCnt := 0,
      dlyLen := s.cfg.tSettle, dlyDone := false, seqPc := .rd3 } := by
    rw [deviceRests, phase, settle, setDevice_polling _ _ _ h.polling]
    exact settleFor_rd0 35 ⟨h.busy, h.alive, h.polling, h.noDelay⟩ hpc rfl
  rw [sendFrame_rests, e]
  rw [e]
  exact deviceRests_rd3 ⟨h.busy, h.alive, h.polling, h.noDelay⟩ rfl rfl

/-! ### A byte and its acknowledgment -/

theorem Running.of {s t : State} (h : Running s) (h1 : t.busy = s.busy := by rfl) (h2 : t.aborted = s.aborted := by rfl)
    (h3 : t.mode = s.mode := by rfl) (h4 : t.dlyReq = s.dlyReq := by rfl) : Running t :=
  ⟨h1.trans h.busy, h2.trans h.alive, h3.trans h.polling, h4.trans h.noDelay⟩

/-- A byte and its acknowledgment, where the next call writes. -/
theorem exchange_then_write (a : Byte) {s : State} (h : Running s) (hpc : s.seqPc = .wr8) (hc : s.hostClock = .rel)
    (hd : s.hostData = .low) (hb : s.bitCnt = 0) (hp : s.par = true)
    (ho : s.seqOp ≠ .querySample ∧ s.seqOp ≠ .tickPoll)
    (hi : s.cmdIdx ≠ lastIdx s.seqOp) (he : entryLabel s.seqOp (s.cmdIdx + 1) = .rd0)
    (hi' : s.cmdIdx + 1 ≠ lastIdx s.seqOp) (he' : entryLabel s.seqOp (s.cmdIdx + 1 + 1) = .wr0) :
    exchange a s = { s with
      devClock := .rel, devData := .rel, devFrame := latchedCells s.tx, hostClock := .rel, hostData := .low, rx := a,
      tx := callByte { s with cmdIdx := s.cmdIdx + 1 + 1 }, par := true, bitCnt := 0, cmdIdx := s.cmdIdx + 1 + 1,
      dlyLen := s.cfg.tPreRelease, dlyDone := false, seqPc := .wr8 } := by
  have hcb : callByte { s with
        devClock := .rel, devData := .rel, devFrame := latchedCells s.tx, hostClock := .rel, hostData := .rel,
        par := oddParity s.tx, rx := 0, bitCnt := 0, cmdIdx := s.cmdIdx + 1 + 1, dlyLen := s.cfg.tSettle,
        dlyDone := false, seqPc := .rd3 } = callByte { s with cmdIdx := s.cmdIdx + 1 + 1 } := rfl
  rw [exchange, answerRequest_then_read h hpc hc hd hb hp hi he]
  exact (sendFrame_then_write (conformingFrame a) (s := { s with
      devClock := .rel, devData := .rel, devFrame := latchedCells s.tx, hostClock := .rel, hostData := .rel,
      par := oddParity s.tx, rx := 0, bitCnt := 0, cmdIdx := s.cmdIdx + 1, dlyLen := s.cfg.tSettle,
      dlyDone := false, seqPc := .rd3 }) h.of rfl rfl rfl rfl rfl ho hi' he').trans (by rw [hcb]; rfl)

/-- A byte and its acknowledgment, where the next call reads. -/
theorem exchange_then_read (a : Byte) {s : State} (h : Running s) (hpc : s.seqPc = .wr8) (hc : s.hostClock = .rel)
    (hd : s.hostData = .low) (hb : s.bitCnt = 0) (hp : s.par = true)
    (ho : s.seqOp = .querySample ∨ s.seqOp = .tickPoll) (hi : s.cmdIdx = 0) :
    exchange a s = { s with
      devClock := .rel, devData := .rel, devFrame := latchedCells s.tx, hostClock := .rel, hostData := .rel,
      par := oddParity s.tx, rx := 0, bitCnt := 0, cmdIdx := 2, dlyLen := s.cfg.tSettle, dlyDone := false,
      seqPc := .rd3 } := by
  rw [exchange, answerRequest_then_read h hpc hc hd hb hp
    (by rcases ho with ho | ho <;> simp [ho, hi, lastIdx]) (by rcases ho with ho | ho <;> simp [ho, hi, entryLabel])]
  refine (sendFrame_then_read (conformingFrame a) (s := { s with
      devClock := .rel, devData := .rel, devFrame := latchedCells s.tx, hostClock := .rel, hostData := .rel,
      par := oddParity s.tx, rx := 0, bitCnt := 0, cmdIdx := s.cmdIdx + 1, dlyLen := s.cfg.tSettle,
      dlyDone := false, seqPc := .rd3 }) h.of rfl rfl rfl rfl rfl
    (by rcases ho with ho | ho <;> simp [ho, hi, lastIdx])
    (by rcases ho with ho | ho <;> simp [ho, hi, entryLabel])).trans ?_
  rcases ho with ho | ho <;> simp [keepReadByte, ho, hi]

/-- The last byte of an operation and its acknowledgment. -/
theorem exchange_then_complete (a : Byte) {s : State} (h : Running s) (hpc : s.seqPc = .wr8) (hc : s.hostClock = .rel)
    (hd : s.hostData = .low) (hb : s.bitCnt = 0) (hp : s.par = true)
    (ho : s.seqOp = .writeRam ∨ s.seqOp = .setSensitivityFactor) (hi : s.cmdIdx = 6) :
    exchange a s = { s with
      devClock := .rel, devData := .rel, devFrame := latchedCells s.tx, hostClock := .low, hostData := .rel, rx := a,
      par := oddParity s.tx, bitCnt := 7, cmdIdx := 7, busy := false, seqOp := .idle, seqPc := .idle, rspValid := true,
      dlyLen := s.cfg.tGuard, dlyDone := false } := by
  rw [exchange, answerRequest_then_read h hpc hc hd hb hp
    (by rcases ho with ho | ho <;> simp [ho, hi, lastIdx]) (by rcases ho with ho | ho <;> simp [ho, hi, entryLabel])]
  refine (sendFrame_then_complete (conformingFrame a) (s := { s with
      devClock := .rel, devData := .rel, devFrame := latchedCells s.tx, hostClock := .rel, hostData := .rel,
      par := oddParity s.tx, rx := 0, bitCnt := 0, cmdIdx := s.cmdIdx + 1, dlyLen := s.cfg.tSettle,
      dlyDone := false, seqPc := .rd3 }) h.of rfl rfl rfl rfl rfl
    (by rcases ho with ho | ho <;> simp [ho, hi, lastIdx])
    (by rcases ho with ho | ho <;> simp [ho])).trans ?_
  rcases ho with ho | ho <;> simp [keepReadByte, ho, hi, conformingFrame]

/-- The second command byte of `enable_streaming` and its acknowledgment: ES_FINAL (R180). -/
theorem exchange_then_final (a : Byte) {s : State} (h : Running s) (hpc : s.seqPc = .wr8) (hc : s.hostClock = .rel)
    (hd : s.hostData = .low) (hb : s.bitCnt = 0) (hp : s.par = true) (ho : s.seqOp = .enableStreaming)
    (hi : s.cmdIdx = 2) :
    exchange a s = { s with
      devClock := .rel, devData := .rel, devFrame := latchedCells s.tx, hostClock := .rel, hostData := .rel, rx := a,
      par := oddParity s.tx, bitCnt := 7, cmdIdx := 4, mode := .streaming, edgePending := false, byteIdx := 0,
      bitIdx := 0, acc := ⟨0, 0, 0⟩, busy := false, seqOp := .idle, seqPc := .idle, rspValid := true,
      dlyLen := s.cfg.tGuard, dlyDone := false } := by
  rw [exchange, answerRequest_then_read h hpc hc hd hb hp (by simp [ho, hi, lastIdx]) (by simp [ho, hi, entryLabel])]
  refine (sendFrame_then_final (conformingFrame a) (s := { s with
      devClock := .rel, devData := .rel, devFrame := latchedCells s.tx, hostClock := .rel, hostData := .rel,
      par := oddParity s.tx, rx := 0, bitCnt := 0, cmdIdx := s.cmdIdx + 1, dlyLen := s.cfg.tSettle,
      dlyDone := false, seqPc := .rd3 }) h.of rfl rfl rfl rfl rfl ho (by simp [hi])).trans ?_
  simp [conformingFrame]

/-- The first byte of an operation and its acknowledgment, from the operation's first label. -/
theorem exchange_wr0 (a : Byte) {s : State} (h : Running s) (hpc : s.seqPc = .wr0) :
    exchange a s = exchange a { s with
      devClock := .rel, devData := .rel, hostClock := .rel, hostData := .low, tx := callByte s, par := true,
      bitCnt := 0, dlyLen := s.cfg.tPreRelease, dlyDone := false, seqPc := .wr8 } := by
  rw [exchange, answerRequest_wr0 h hpc, exchange]

end Sys2Proof.Machine
end

