-- ==== Sys2Proof/Tests/Slice0.lean ====
section
/-! SUPPORT. The model's own tests. Expected values come from the worked vectors of spec/95_test_vectors.md (V-..,
PRG..) and from the encoding tables of spec/30_encoding.md; the witnesses show that the hypotheses of the statements
can be met together. -/

namespace Sys2Proof.Tests

open Sys2Proof.Machine

/-! ### Small states -/

/-- The state an instruction leaves; the state itself where it stops. -/
def after (i : Instr) (s : State) : State :=
  match exec i s with
  | .next t => t
  | .fault _ => s
  | .refused _ => s

/-- The state an entry leaves; the state itself where it stops. -/
def afterInput (e : Input) (s : State) : State :=
  match takeInput e s with
  | .next t => t
  | .fault _ => s
  | .refused _ => s

/-- The reset state of a polling build. -/
def pollingBuild : State := State.resetOf { Config.default with variant := .polling }

/-- STREAMING with an empty cache: the end of V-C4. -/
def streamingState : State := { State.reset with mode := .streaming }

/-- STREAMING with a Sample published: the end of V-S1. -/
def published : State := { streamingState with sample := ⟨0x01, 0x05, 0xFB⟩, dataAvailable := true }

/-- An operation in progress at a label. -/
def atLabel (op : SeqOp) (idx : Fin 8) (pc : Label) : State :=
  { State.reset with busy := true, seqOp := op, cmdIdx := idx, seqPc := pc }

/-- An operation in progress at a label, in a polling build. -/
def atLabelPolling (op : SeqOp) (idx : Fin 8) (pc : Label) : State :=
  { pollingBuild with busy := true, seqOp := op, cmdIdx := idx, seqPc := pc }

/-- The engine after Abort (PRG4). -/
def abortedState : State :=
  { streamingState with sample := ⟨0x01, 0x05, 0xFB⟩, aborted := true, dispState := .dispatching }

/-- The sampler with an edge taken off the line and a position in the frame. -/
def edgeAt (byte : Fin 3) (bit : Fin 11) : State :=
  { streamingState with edgePending := true, byteIdx := byte, bitIdx := bit }

/-- A `read_byte` waiting for its START cell. -/
def waiting (op : SeqOp) (idx : Fin 8) : State := atLabel op idx .rd3

/-! ### WellFormed: one ill-formed term for each check -/

theorem test_wf_reserved_code : (Instr.reservedCmd 0x3).wf = false := by decide
theorem test_wf_reserved_code_low : (Instr.reservedCmd 0x7).wf = false := by decide
theorem test_wf_reserved_code_ok : (Instr.reservedCmd 0x8).wf = true := by decide
theorem test_wf_hold_short : ({ Config.default with tResetHold := 999999 } : Config).wf = false := by decide
theorem test_wf_hold_long : ({ Config.default with tResetHold := 2000001 } : Config).wf = false := by decide
theorem test_wf_default : Config.default.wf = true := by decide

/-! ### Decoding: words written out from the tables of spec/30_encoding.md -/

-- R110: `(cmd_op, cmd_a, cmd_b)`, V-C1, V-C3, V-C6, V-C7.
theorem test_decode_write_byte : decode [0x1, 0x5A, 0x00] = .ok (.writeByte 0x5A, []) := by decide
theorem test_decode_read_byte : decode [0x2, 0x77, 0x77] = .ok (.readByte, []) := by decide
theorem test_decode_reset : decode [0x3, 0x00, 0x00] = .ok (.reset, []) := by decide
theorem test_decode_write_ram : decode [0x4, 0x4A, 0xC8] = .ok (.writeRam 0x4A 0xC8, []) := by decide
theorem test_decode_sensitivity : decode [0x5, 0xC8, 0x00] = .ok (.setSensitivityFactor 0xC8, []) := by decide
theorem test_decode_enable : decode [0x6, 0x00, 0x00] = .ok (.enableStreaming, []) := by decide
theorem test_decode_query : decode [0x7, 0x00, 0x00] = .ok (.querySample, []) := by decide
theorem test_decode_nop : decode [0x0, 0x12, 0x34] = .ok (.nop, []) := by decide
theorem test_decode_reserved : decode [0xF, 0x00, 0x00] = .ok (.reservedCmd 0xF, []) := by decide
-- R92, V-P1: `0 01011010 1 1` and the ACK cell 0; the earliest cell is bit 0 of the first byte.
theorem test_decode_h2d : decode [0x20, 0b10110100, 0b0110] = .ok (.h2d 0x5A, []) := by decide
theorem test_decode_h2d_parity0 : decode [0x20, 0b00000010, 0b0100] = .ok (.h2d 0x01, []) := by decide
-- R93: with the parity cell of `0x01` inverted, with STOP 0, or with a thirteenth cell it is no H2D frame.
theorem test_decode_h2d_bad_parity : decode [0x20, 0b00000010, 0b0110] = .error .badH2dFrame := by decide
theorem test_decode_h2d_no_stop : decode [0x20, 0b00000010, 0b0000] = .error .badH2dFrame := by decide
theorem test_decode_h2d_padding : decode [0x20, 0b00000010, 0b10100] = .error .badPadding := by decide
-- R95, R96, V-P4: `1 01011111 0 0` is a frame of `0xFA` all the same.
theorem test_decode_d2h : decode [0x21, 0b11110101, 0b001] = .ok (.d2h ⟨true, 0xFA, false, false⟩, []) := by decide
theorem test_decode_d2h_short : decode [0x21, 0b11110101] = .error .truncated := by decide
-- R98, V-S3(b): `1 00100000 1 0` `1 11111110 1 0` `1 00000001 1 0`.
theorem test_decode_mov : decode [0x22, 0b00001001, 0b11111010, 0b01010111, 0b11000000, 0b0] =
    .ok (.mov ⟨true, 0x04, true, false⟩ ⟨true, 0x7F, true, false⟩ ⟨true, 0x80, true, false⟩, []) := by decide
-- R100, R101: the match values of the table.
theorem test_decode_command_bytes :
    decode [0xEB] = .ok (.cmdReadData, []) ∧ decode [0xE2] = .ok (.cmdRamSelect, []) ∧
    decode [0x81] = .ok (.cmdRamSet, []) ∧ decode [0xEA] = .ok (.cmdSetStreamMode, []) ∧
    decode [0xF4] = .ok (.cmdEnableReporting, []) := by decide
theorem test_decode_ack : decode [0xFA, 0xFE] = .ok (.ack 0xFE, []) := by decide
-- R102 to R107, R111: operands in the order of the table's rows, behind the model's tags (log 5).
theorem test_decode_seq : decode [0x30, 0x4A, 0xC8, 0xFA, 0xFB, 0xFC, 0xFD] =
    .ok (.seqWriteRam 0x4A 0xC8 0xFA 0xFB 0xFC 0xFD, []) := by decide
theorem test_decode_seq_streaming : decode [0x31, 0xFA, 0xFB] = .ok (.seqEnableStreaming 0xFA 0xFB, []) := by decide
theorem test_decode_seq_query : decode [0x32, 0xFA, 0x09, 0x05, 0xFB] = .ok (.seqQuery 0xFA 0x09 0x05 0xFB, []) := by
  decide
theorem test_decode_pulse : decode [0x40] = .ok (.resetPulse, []) := by decide
theorem test_decode_rpt : decode [0x41, 0x01, 0x05, 0xFB] = .ok (.rpt ⟨0x01, 0x05, 0xFB⟩, []) := by decide
theorem test_decode_events :
    decode [0x10] = .ok (.edge, []) ∧ decode [0x11] = .ok (.frameStart, []) ∧
    decode [0x12] = .ok (.tickStream, []) ∧ decode [0x13] = .ok (.tickPoll, []) ∧
    decode [0x14] = .ok (.hwReset, []) := by decide
theorem test_decode_unknown : decode [0x99] = .error (.unknownRow 0x99) := by decide
theorem test_decode_empty : decode [] = .error .truncated := by decide
theorem test_table_word : decodeTableWord 8 0x1 = some (.writeByte 0) ∧ decodeTableWord 8 0xEB = some .cmdReadData := by
  decide

/-! ### One instruction, one step -/

-- R38, R112
theorem test_write_byte : (after (.writeByte 0x5A) .reset).tx = 0x5A ∧ (after (.writeByte 0x5A) .reset).seqPc = .wr0 := by
  decide
-- V-C7: in STREAMING the Lines stay released and nothing starts
theorem test_write_byte_refused : after (.writeByte 0x5A) streamingState = streamingState := by decide
theorem test_read_byte : (after .readByte .reset).seqPc = .rd0 ∧ (after .readByte .reset).busy = true := by decide
theorem test_reset_pulse_starts : (seqStep (after .reset .reset)).resetOut = true := by decide
theorem test_write_ram_latches : (after (.writeRam 0x4A 0xC8) .reset).argLoc = 0x4A ∧
    (after (.writeRam 0x4A 0xC8) .reset).argVal = 0xC8 := by decide
-- V-C3
theorem test_sensitivity_address : (after (.setSensitivityFactor 0xC8) .reset).argLoc = 0x4A ∧
    (after (.setSensitivityFactor 0xC8) .reset).argVal = 0xC8 := by decide
-- V-C7: each variant refuses the other's operation
theorem test_enable_streaming_variant : after .enableStreaming pollingBuild = pollingBuild ∧
    (after .enableStreaming .reset).busy = true := by decide
theorem test_query_variant : after .querySample .reset = .reset ∧ (after .querySample pollingBuild).busy = true := by
  decide
theorem test_nop : after .nop .reset = .reset := by decide
theorem test_reserved : after (.reservedCmd 0xF) .reset = .reset := by decide
-- V-S1, edges 2 and 33
theorem test_edge_data_cell : (after .edge (edgeAt 0 1)).acc = ⟨0x01, 0, 0⟩ ∧ (after .edge (edgeAt 0 1)).bitIdx = 2 := by
  decide
theorem test_edge_publishes :
    (after .edge { edgeAt 2 10 with acc := ⟨0x01, 0x05, 0xFB⟩ }).sample = ⟨0x01, 0x05, 0xFB⟩ ∧
    (after .edge { edgeAt 2 10 with acc := ⟨0x01, 0x05, 0xFB⟩ }).dataAvailable = true := by decide
-- V-S4, after FRAME_START; V-S8(b)
theorem test_frame_start : (after .frameStart { edgeAt 1 4 with acc := ⟨0x07, 0x01, 0⟩ }).acc = ⟨0, 0, 0⟩ ∧
    (after .frameStart { edgeAt 1 4 with acc := ⟨0x07, 0x01, 0⟩ }).byteIdx = 0 := by decide
theorem test_frame_start_keeps_cache : after .frameStart published = published := by decide
-- V-D1
theorem test_tick_stream : (after .tickStream published).report = ⟨5, 5, 1, 0, 0⟩ ∧
    (after .tickStream published).dataAvailable = false := by decide
theorem test_tick_stream_invalid : (after .tickStream { published with rptResult := .invalid }).aborted = true ∧
    (after .tickStream { published with rptResult := .invalid }).dispState = .dispatching := by decide
-- V-D3: a tick while busy is dropped
theorem test_tick_poll : (after .tickPoll pollingBuild).seqOp = .tickPoll ∧
    after .tickPoll (after .tickPoll pollingBuild) = after .tickPoll pollingBuild := by decide
-- R243: the report of `q = (0x09, 0x05, 0xFB)`; R50: written and presented in the same step
theorem test_tick_poll_offers :
    let s := seqStep { atLabelPolling .tickPoll 4 .p3 with q := ⟨0x09, 0x05, 0xFB⟩ }
    s.report = ⟨5, 5, 1, 0, 0⟩ ∧ s.rptValid = true := by decide
-- PRG4, step 6
theorem test_hw_reset : (after .hwReset abortedState).aborted = false ∧ (after .hwReset abortedState).mode = .polling := by
  decide
-- V-P2: end state, and the cells the device latched
theorem test_h2d : (after (.h2d 0x5A) .reset).devFrame =
      [false, true, false, true, true, false, true, false, true, true] ∧
    (after (.h2d 0x5A) .reset).hostClock = .low := by decide +kernel
-- V-P4, third row
theorem test_d2h_ignores_framing : (after (.d2h ⟨true, 0xFA, false, false⟩) (after .readByte .reset)).rx = 0xFA := by
  decide +kernel
-- V-S3(b)
theorem test_mov : (after (.mov ⟨true, 0x04, true, false⟩ ⟨true, 0x7F, true, false⟩ ⟨true, 0x80, true, false⟩)
    streamingState).sample = ⟨0x04, 0x7F, 0x80⟩ := by decide +kernel
-- V-P1: `0xEB`, `0xE2`, `0x81`, `0xEA`, `0xF4`
theorem test_cmd_read_data : (after .cmdReadData .reset).devFrame =
    [true, true, false, true, false, true, true, true, true, true] := by decide +kernel
theorem test_cmd_ram_select : (after .cmdRamSelect .reset).devFrame =
    [false, true, false, false, false, true, true, true, true, true] := by decide +kernel
theorem test_cmd_ram_set : (after .cmdRamSet .reset).devFrame =
    [true, false, false, false, false, false, false, true, true, true] := by decide +kernel
theorem test_cmd_set_stream_mode : (after .cmdSetStreamMode .reset).devFrame =
    [false, true, false, true, false, true, true, true, false, true] := by decide +kernel
theorem test_cmd_enable_reporting : (after .cmdEnableReporting .reset).devFrame =
    [false, false, true, false, true, true, true, true, false, true] := by decide +kernel
-- V-C2: an unexpected answer, and the sequence goes on
theorem test_ack : (after (.ack 0xFE) (waiting .writeRam 1)).seqPc = .wr8 ∧
    (after (.ack 0xFE) (waiting .writeRam 1)).tx = 0x81 := by decide +kernel
-- V-C2
theorem test_seq_write_ram : (after (.seqWriteRam 0x4A 0xC8 0xFE 0x00 0xFF 0xFC) .reset).cmdIdx = 7 ∧
    (after (.seqWriteRam 0x4A 0xC8 0xFE 0x00 0xFF 0xFC) .reset).tx = 0xC8 := by decide +kernel
-- V-C4
theorem test_seq_enable_streaming : (after (.seqEnableStreaming 0xFA 0xFA) .reset).mode = .streaming ∧
    (after (.seqEnableStreaming 0xFA 0xFA) .reset).hostClock = .rel := by decide +kernel
-- V-C5
theorem test_seq_query : (after (.seqQuery 0xFA 0x09 0x05 0xFB) pollingBuild).q = ⟨0x09, 0x05, 0xFB⟩ ∧
    (after (.seqQuery 0xFA 0x09 0x05 0xFB) pollingBuild).hostClock = .low := by decide +kernel
-- V-C6
theorem test_reset_pulse : (after .resetPulse .reset).resetOut = false ∧ (after .resetPulse .reset).dlyLen = 2000000 := by
  decide +kernel
-- V-F1: (A5, 80, 80) and (07, 01, 01); V-F4
theorem test_rpt : (after (.rpt ⟨0xA5, 0x80, 0x80⟩) .reset).report = ⟨0x80, 0x7F, 0x05, 0, 0⟩ ∧
    (after (.rpt ⟨0x07, 0x01, 0x01⟩) .reset).report = ⟨0x01, 0xFF, 0x07, 0, 0⟩ := by decide
theorem test_rpt_wrap : (formatReport { Config.default with neg128 := .wrap } ⟨0, 0, 0x80⟩).y = 0x80 := by decide
-- V-X1
theorem test_parity : oddParity 0x00 = true ∧ oddParity 0xFF = true ∧ oddParity 0x01 = false := by decide
-- V-S9: in POLLING a falling edge of CLOCK leaves `edge_pending` alone; in STREAMING it sets it (R201)
theorem test_edge_detector : (setDevice .low .rel State.reset).edgePending = false ∧
    (setDevice .low .rel streamingState).edgePending = true := by decide
-- V-P5(a): with a silent device `write_byte` stays at WR8
theorem test_hang_wr8 : settle (after (.writeByte 0x5A) .reset) = settle (settle (after (.writeByte 0x5A) .reset)) ∧
    (settle (after (.writeByte 0x5A) .reset)).seqPc = .wr8 := by decide

/-! ### Witnesses: the hypotheses of each statement of Certificates/Slice0/Obligations.lean, met together -/

theorem ready_reset : Ready State.reset := ⟨rfl, rfl, rfl, rfl⟩
theorem ready_polling : Ready pollingBuild := ⟨rfl, rfl, rfl, rfl⟩
theorem sampling_streaming : Sampling streamingState := ⟨rfl, rfl, rfl, rfl, rfl, rfl, rfl⟩
theorem waits_write_ram (idx : Fin 8) : WaitsForByte (waiting .writeRam idx) :=
  ⟨rfl, rfl, rfl, rfl, rfl, rfl, rfl, rfl, rfl⟩

theorem witness_DecodeOfEncode : (Instr.reservedCmd 0x8).wf = true ∧ (Instr.reservedCmd 0xF).wf = true ∧
    (Instr.ack 0xFF).wf = true := by decide
theorem witness_DecodedIsWellFormed : decode [0x8, 1, 2, 3] = .ok (.reservedCmd 0x8, [3]) := by decide
theorem witness_SelectCodes : 8 ≤ (0x8 : BitVec 4).toNat ∧ 8 ≤ (0xF : BitVec 4).toNat := by decide
theorem witness_NopAndReservedIgnored : 8 ≤ (0x8 : BitVec 4).toNat ∧ 8 ≤ (0xF : BitVec 4).toNat := by decide
theorem witness_AllD2hCellsAccepted : (7 < 8) ∧ Ready State.reset := ⟨by decide, ready_reset⟩
theorem witness_ParityBitTransmitted : Ready State.reset := ready_reset
theorem witness_StepRunsDecodedWord :
    ({ State.reset with inputs := [.word [0x1, 0x5A, 0, 7], .tick] } : State).inputs = .word [0x1, 0x5A, 0, 7] :: [.tick] ∧
    decode [0x1, 0x5A, 0, 7] = .ok (.writeByte 0x5A, [7]) := by decide
theorem witness_StepTakesOtherEntries :
    decode [0x99] = .error (.unknownRow 0x99) ∧
    (∀ e : Input, ({ State.reset with inputs := [e] } : State).inputs = e :: []) ∧
    (edgeAt 0 0).inputs = [] ∧ edgeEnabled (edgeAt 0 0) = true ∧
    State.reset.inputs = [] ∧ edgeEnabled State.reset = false := by
  refine ⟨by decide, fun _ => rfl, by decide⟩
theorem witness_FetchWordIsRun : decodeTableWord 8 0x7 = some .querySample ∧ decodeTableWord 24 0xC84A04 =
    some (.writeRam 0x4A 0xC8) := by decide
theorem witness_ParametersConstant : step State.reset = .next (ownTurn (clearStrobes State.reset)) := rfl
theorem witness_CallsAccepted : State.reset.busy = false ∧ State.reset.aborted = false ∧ State.reset.mode = .polling := by
  decide
theorem witness_VariantCallsAccepted :
    (State.reset.busy = false ∧ State.reset.aborted = false ∧ State.reset.mode = .polling ∧
      State.reset.cfg.variant = .streaming) ∧
    pollingBuild.busy = false ∧ pollingBuild.aborted = false ∧ pollingBuild.mode = .polling ∧
      pollingBuild.cfg.variant = .polling := by decide
theorem witness_IllegalCallsRefused :
    (atLabel .writeByte 0 .wr8).busy = true ∧ abortedState.aborted = true ∧ streamingState.mode = .streaming ∧
    State.reset.cfg.variant = .streaming ∧ pollingBuild.cfg.variant = .polling := by decide

/-- Every label, with the operation in progress, in POLLING. -/
theorem witness_programs (op : SeqOp) (idx : Fin 8) (pc : Label) : (atLabel op idx pc).busy = true ∧
    (atLabel op idx pc).aborted = false ∧ (atLabel op idx pc).mode = .polling ∧ (atLabel op idx pc).seqPc = pc ∧
    (atLabel op idx pc).seqOp = op ∧ (atLabel op idx pc).cmdIdx = idx ∧ (atLabel op idx pc).dlyReq = false :=
  ⟨rfl, rfl, rfl, rfl, rfl, rfl, rfl⟩
/-- The last clause of `WriteByteProgram`; and the two ends of the loop, bit 0 and bit 7. -/
theorem witness_WriteByteProgram : (atLabel .writeByte 0 .wr15).seqPc = .wr15 ∧ (atLabel .writeByte 0 .wr15).seqOp = .writeByte ∧
    (atLabel .writeByte 0 .wr15).cmdIdx = 0 ∧ (seqStep { atLabel .writeByte 0 .wr9d with bitCnt := 7 }).seqPc = .wr10a ∧
    (seqStep { atLabel .writeByte 0 .wr9d with bitCnt := 0 }).seqPc = .wr9a := by decide
theorem witness_ReadByteProgram : (atLabel .readByte 0 .rd10).seqPc = .rd10 ∧ (atLabel .readByte 0 .rd10).seqOp = .readByte ∧
    (atLabel .readByte 0 .rd10).cmdIdx = 0 ∧ (seqStep { atLabel .readByte 0 .rd6c with bitCnt := 7 }).seqPc = .rd7a ∧
    (seqStep { atLabel .readByte 0 .rd6c with bitCnt := 0 }).seqPc = .rd6a := by decide
theorem witness_CompositeSequences :
    (atLabel .writeRam 6 .wr0).seqOp = .writeRam ∧ (atLabel .writeRam 6 .wr0).cmdIdx = 6 ∧
    (atLabel .setSensitivityFactor 0 .wr0).seqOp = .setSensitivityFactor ∧
    (atLabel .enableStreaming 2 .wr0).seqOp = .enableStreaming ∧ (atLabel .querySample 4 .rd10).seqOp = .querySample ∧
    (atLabel .tickPoll 4 .rd10).cmdIdx = lastIdx (atLabel .tickPoll 4 .rd10).seqOp ∧
    (atLabel .writeRam 7 .rd10).cmdIdx = lastIdx (atLabel .writeRam 7 .rd10).seqOp ∧
    (atLabel .writeRam 6 .wr15).cmdIdx ≠ lastIdx (atLabel .writeRam 6 .wr15).seqOp := by decide
/-- Every kind of hang, and a step that can go on. -/
theorem witness_HangPoints :
    seqEnabled (atLabel .writeByte 0 .wr8) = false ∧ level .clock (atLabel .writeByte 0 .wr8) = true ∧
    seqEnabled { atLabel .readByte 0 .rd5 with devClock := .low } = false ∧
    seqEnabled (atLabel .writeByte 0 .wr13) = false ∧
    seqEnabled { atLabel .writeByte 0 .wr14 with devData := .low } = false ∧
    seqEnabled (atLabel .writeByte 0 .wr14) = true ∧ seqEnabled (atLabel .writeByte 0 .wr2) = true := by decide
theorem witness_ResetPulse : (atLabel .reset 0 .rs1).busy = true ∧ (atLabel .reset 0 .rs1).aborted = false ∧
    Ready State.reset := ⟨rfl, rfl, ready_reset⟩
theorem witness_EsFinalStep : (atLabel .enableStreaming 4 .esFinal).seqPc = .esFinal ∧
    (atLabel .enableStreaming 4 .esFinal).mode = .polling ∧ streamingState.mode = .streaming ∧
    streamingState.busy = false := by decide
theorem witness_TickPollTail :
    (atLabelPolling .tickPoll 4 .p3).busy = true ∧ (atLabelPolling .tickPoll 4 .p3).rptResult ≠ .invalid ∧
    ({ atLabelPolling .tickPoll 4 .p3 with rptResult := .invalid } : State).rptResult = .invalid ∧
    (atLabelPolling .tickPoll 4 .p3).seqPc = .p3 ∧ (atLabelPolling .tickPoll 4 .p6).seqPc = .p6 := by decide
theorem witness_LevelIsWiredAnd : isPortRow .edge = true ∧ exec .edge State.reset = .next (edgeStep State.reset) :=
  ⟨rfl, rfl⟩
theorem witness_EdgeDetector : ({ State.reset with edgePending := true } : State).mode = .polling ∧
    (seqStep { State.reset with edgePending := true }).edgePending = true := by decide
/-- The clauses at both ends of each range: cells 0, 1, 8, 9 and 10, bytes 0 to 2. -/
theorem witness_EdgeStep :
    ((edgeAt 0 0).edgePending = true ∧ (edgeAt 0 0).mode = .streaming ∧ (edgeAt 0 0).aborted = false ∧
      ¬ ((edgeAt 0 0).cfg.variant = .streaming ∧ (edgeAt 0 0).dispState = .dispatching)) ∧
    (edgeAt 2 9).bitIdx = 9 ∧ (1 ≤ (edgeAt 0 1).bitIdx.val ∧ (edgeAt 2 8).bitIdx.val ≤ 8) ∧
    ((edgeAt 1 10).bitIdx = 10 ∧ (edgeAt 1 10).byteIdx ≠ 2) ∧ ((edgeAt 2 10).bitIdx = 10 ∧ (edgeAt 2 10).byteIdx = 2) ∧
    streamingState.edgePending = false ∧ State.reset.mode = .polling ∧ abortedState.aborted = true ∧
    (abortedState.cfg.variant = .streaming ∧ abortedState.dispState = .dispatching) := by decide
theorem witness_FrameStartDiscards : (edgeAt 1 4).mode = .streaming ∧ (edgeAt 1 4).aborted = false ∧
    State.reset.mode = .polling ∧ abortedState.aborted = true := by decide
theorem witness_TickAcceptance :
    State.reset.cfg.variant = .streaming ∧ State.reset.dataAvailable = false ∧ abortedState.dispState = .dispatching ∧
    (pollingBuild.cfg.variant = .polling ∧ pollingBuild.aborted = false ∧ pollingBuild.dispState = .idle ∧
      pollingBuild.busy = false) ∧
    ((atLabelPolling .writeByte 0 .wr8).cfg.variant = .polling ∧ (atLabelPolling .writeByte 0 .wr8).busy = true) := by
  decide
theorem witness_TickStreamDispatches :
    (published.cfg.variant = .streaming ∧ published.aborted = false ∧ published.dispState = .idle ∧
      published.dataAvailable = true ∧ published.rptResult ≠ .invalid) ∧
    streamingState.dataAvailable = false ∧ ({ published with rptResult := .invalid } : State).rptResult = .invalid := by
  decide
/-- An edge before the first tick, an `EDGE` that does not publish after it. -/
theorem witness_FreshnessGating :
    let s := { published with edgePending := true }
    exec .tickStream s = .next (after .tickStream s) ∧
    (∀ e ∈ [Input.word [0x10]], isPrimitive s.cfg e = true) ∧
    (∀ (l m : List Input) (e : Input) (v : State), [Input.word [0x10]] = l ++ e :: m →
      runInputs l (after .tickStream s) = some v → rowOf s.cfg e = some .edge →
      ¬ (edgeEnabled v = true ∧ v.byteIdx = 2 ∧ v.bitIdx = 10)) ∧
    (runInputs [.word [0x10]] (after .tickStream s)).isSome = true ∧
    s.cfg.variant = .streaming ∧ s.aborted = false ∧ s.dispState = .idle ∧ s.dataAvailable = true := by
  refine ⟨rfl, by decide, ?_, by decide, by decide⟩
  intro l m e v hl hr _ h
  cases l with
  | nil =>
    cases hr
    exact absurd h.2.1 (by decide)
  | cons a l => simp at hl
theorem witness_FormatReport : (0x80 : Byte).toInt = -128 ∧ (0x81 : Byte).toInt ≠ -128 ∧
    Config.default.neg128 = .saturate ∧ ({ Config.default with neg128 := .wrap } : Config).neg128 = .wrap := by decide
theorem witness_RptOffered : State.reset.aborted = false ∧ State.reset.rptResult ≠ .invalid ∧
    ({ State.reset with rptResult := .invalid } : State).rptResult = .invalid ∧ abortedState.aborted = true := by decide
theorem witness_AbortIsFinal :
    (({ published with rptResult := .invalid } : State).rptResult = .invalid ∧ published.cfg.variant = .streaming ∧
      published.dispState = .idle ∧ published.dataAvailable = true ∧ published.aborted = false) ∧
    ((atLabelPolling .tickPoll 4 .p3).busy = true ∧ (atLabelPolling .tickPoll 4 .p3).seqPc = .p3) ∧
    ({ abortedState with inputs := [.tick] } : State).aborted = true ∧ rowOf abortedState.cfg .tick ≠ some .hwReset ∧
    step abortedState = .next (ownTurn (clearStrobes abortedState)) ∧
    (∃ t, step { published with rptResult := .invalid, inputs := [.tick] } = .next t ∧ t.aborted = true) := by
  refine ⟨by decide, by decide, by decide, by decide, rfl, _, rfl, rfl⟩
theorem witness_H2dTransfers : Ready State.reset := ready_reset
theorem witness_CommandBytesTransferred : Ready State.reset := ready_reset
theorem witness_D2hRead : Ready State.reset := ready_reset
theorem witness_FramesIgnoredWhenIdle : State.reset.mode = .polling ∧ State.reset.busy = false := by decide
theorem witness_FramesOutsideReadUndecoded :
    State.reset.mode = .polling ∧ labelPart State.reset.seqPc ≠ .read ∧ State.reset.seqPc ≠ .esFinal ∧
    ((atLabel .writeByte 0 .wr13).mode = .polling ∧ (atLabel .writeByte 0 .wr13).seqOp = .writeByte ∧
      labelPart (atLabel .writeByte 0 .wr13).seqPc = .write) ∧
    ((atLabel .reset 0 .rs1).mode = .polling ∧ (atLabel .reset 0 .rs1).seqOp = .reset ∧
      labelPart (atLabel .reset 0 .rs1).seqPc = .pulse) := by decide
theorem witness_D2hSampled :
    (Sampling streamingState ∧ streamingState.bitIdx = 0 ∧ accByte streamingState.acc streamingState.byteIdx = 0 ∧
      streamingState.byteIdx ≠ 2) ∧
    Sampling { streamingState with byteIdx := 2, acc := ⟨1, 5, 0⟩ } ∧
    accByte ({ streamingState with byteIdx := 2, acc := ⟨1, 5, 0⟩ } : State).acc 2 = 0 :=
  ⟨⟨sampling_streaming, rfl, rfl, by decide⟩, ⟨rfl, rfl, rfl, rfl, rfl, rfl, rfl⟩, rfl⟩
theorem witness_MovPublishes : Sampling streamingState ∧ streamingState.byteIdx = 0 ∧ streamingState.bitIdx = 0 ∧
    streamingState.acc = ⟨0, 0, 0⟩ := ⟨sampling_streaming, rfl, rfl, rfl⟩
theorem witness_ResynchronisedFrame : Sampling { streamingState with byteIdx := 1, bitIdx := 4, acc := ⟨7, 1, 0⟩ } :=
  ⟨rfl, rfl, rfl, rfl, rfl, rfl, rfl⟩
theorem witness_AckDiscarded :
    (∀ idx, WaitsForByte (waiting .writeRam idx)) ∧ (waiting .writeRam 1).seqOp = .writeRam ∧
    (waiting .writeRam 1).cmdIdx = 1 ∧ (waiting .writeRam 3).cmdIdx = 3 ∧ (waiting .writeRam 5).cmdIdx = 5 :=
  ⟨waits_write_ram, rfl, rfl, rfl, rfl⟩
theorem witness_AckValueUnseen :
    (WaitsForByte (waiting .setSensitivityFactor 7) ∧ (waiting .setSensitivityFactor 7).cmdIdx.val % 2 = 1) ∧
    (WaitsForByte (waiting .enableStreaming 3) ∧ (waiting .enableStreaming 3).cmdIdx = 3) ∧
    (WaitsForByte (waiting .tickPoll 1) ∧ (waiting .tickPoll 1).cmdIdx = 1) ∧
    (WaitsForByte (waiting .writeRam 1) ∧ (waiting .writeRam 1).cmdIdx.val % 2 = 1) ∧
    (∀ (s : State) (v : Byte), exec (.ack v) s = .next (after (.ack v) s)) :=
  ⟨⟨⟨rfl, rfl, rfl, rfl, rfl, rfl, rfl, rfl, rfl⟩, rfl⟩, ⟨⟨rfl, rfl, rfl, rfl, rfl, rfl, rfl, rfl, rfl⟩, rfl⟩,
    ⟨⟨rfl, rfl, rfl, rfl, rfl, rfl, rfl, rfl, rfl⟩, rfl⟩, ⟨waits_write_ram 1, rfl⟩, fun _ _ => rfl⟩
theorem witness_WriteRamSequence : Ready State.reset := ready_reset
theorem witness_EnableStreamingSequence : Ready State.reset ∧ State.reset.cfg.variant = .streaming := ⟨ready_reset, rfl⟩
theorem witness_QuerySequence : Ready pollingBuild ∧ pollingBuild.cfg.variant = .polling := ⟨ready_polling, rfl⟩
theorem witness_SequencesAreTheirFrames : (Ready State.reset ∧ State.reset.cfg.variant = .streaming) ∧
    Ready pollingBuild ∧ pollingBuild.cfg.variant = .polling := ⟨⟨ready_reset, rfl⟩, ready_polling, rfl⟩
theorem witness_StartUpReachesStreaming : Config.default.variant = .streaming := rfl
theorem witness_EchoRoundTrip : Ready State.reset := ready_reset
theorem witness_EndToEndStreaming :
    Sampling streamingState ∧ streamingState.byteIdx = 0 ∧ streamingState.bitIdx = 0 ∧ streamingState.acc = ⟨0, 0, 0⟩ ∧
    streamingState.cfg.variant = .streaming ∧ streamingState.rptResult ≠ .invalid ∧
    (conformingFrame 0x01).byte = 0x01 ∧ (conformingFrame 0x05).byte = 0x05 ∧ (conformingFrame 0xFB).byte = 0xFB :=
  ⟨sampling_streaming, rfl, rfl, rfl, rfl, by decide, rfl, rfl, rfl⟩
theorem witness_TickPollPeriod : Ready pollingBuild ∧ pollingBuild.cfg.variant = .polling ∧
    pollingBuild.dispState = .idle ∧ pollingBuild.rptResult ≠ .invalid := ⟨ready_polling, rfl, rfl, by decide⟩
theorem witness_WireRowsAreRuns : isPortRow (.h2d 0x5A) = false ∧ (∀ p, Instr.h2d 0x5A ≠ .rpt p) ∧
    exec (.h2d 0x5A) State.reset = .next (after (.h2d 0x5A) State.reset) :=
  ⟨rfl, nofun, rfl⟩
theorem inv_reset : Inv State.reset := by
  constructor <;> first | decide | exact trivial
theorem witness_StepKeepsInv : Inv State.reset ∧ step State.reset = .next (ownTurn (clearStrobes State.reset)) :=
  ⟨inv_reset, rfl⟩
theorem witness_ResetIsLegal : Inv State.reset ∧ State.reset.busy = false ∧ State.reset.aborted = false ∧
    State.reset.mode = .polling := ⟨inv_reset, rfl, rfl, rfl⟩
theorem witness_RegimeChanges :
    ({ streamingState with inputs := [.word [0x14]] } : State).mode = .streaming ∧
    (∃ t, step { streamingState with inputs := [.word [0x14]] } = .next t ∧ t.mode = .polling) ∧
    (∃ t, step (atLabel .enableStreaming 4 .esFinal) = .next t ∧ t.mode = .streaming) ∧
    (∀ e rest, (atLabel .enableStreaming 4 .esFinal).inputs = e :: rest →
      isPrimitive (atLabel .enableStreaming 4 .esFinal).cfg e = true) :=
  ⟨rfl, ⟨_, rfl, rfl⟩, ⟨_, rfl, rfl⟩, nofun⟩
theorem witness_CacheWriters :
    (isPrimitive Config.default (.word [0x10]) = true ∧
      ∃ t, takeInput (.word [0x10]) { edgeAt 2 10 with acc := ⟨1, 5, 0xFB⟩ } = .next t ∧ t.sample ≠ (edgeAt 2 10).sample ∧
        (edgeAt 2 10).dataAvailable = false ∧ t.dataAvailable = true) ∧
    (isPrimitive Config.default (.word [0x14]) = true ∧
      ∃ t, takeInput (.word [0x14]) published = .next t ∧ t.dataAvailable = false) ∧
    ∃ t, takeInput .tick published = .next t ∧ published.dataAvailable = true ∧ t.dataAvailable = false :=
  ⟨⟨by decide, _, rfl, by decide, rfl, rfl⟩, ⟨by decide, _, rfl, rfl⟩, _, rfl, rfl, rfl⟩
theorem witness_CacheHandshake :
    (∀ e ∈ [Input.word [0x10]], isPrimitive Config.default e = true ∧ rowOf Config.default e ≠ some .hwReset) ∧
    (edgeAt 2 10).dataAvailable = false ∧
    ∃ u, runInputs [.word [0x10]] (edgeAt 2 10) = some u ∧ u.dataAvailable = true :=
  ⟨by decide, rfl, _, rfl, rfl⟩
theorem witness_ContextsKeepApart :
    ((atLabel .writeByte 0 .wr0).seqPc ≠ .esFinal ∧ (atLabel .writeByte 0 .wr0).seqPc ≠ .p3 ∧
      (atLabel .writeByte 0 .wr0).seqPc ≠ .p6 ∧ (atLabel .writeByte 0 .wr0).mode = .polling) ∧
    (seqStep { State.reset with edgePending := true }).edgePending = true ∧
    exec .edge (edgeAt 2 10) = .next (after .edge (edgeAt 2 10)) ∧
    exec .frameStart streamingState = .next (after .frameStart streamingState) ∧
    exec .tickStream published = .next (after .tickStream published) := ⟨by decide, by decide, rfl, rfl, rfl⟩
/-- One step from reset that ends in STREAMING: the whole ENABLE_STREAMING row (V-C4). -/
theorem witness_StreamingLinesReleased : ∃ t : State,
    Host.Core.run Sys2Proof.core 1 ({ State.resetOf Config.default with inputs := [.word [0x31, 0xFA, 0xFA]] } : State) =
      Host.Outcome.next t ∧ t.mode = .streaming :=
  ⟨after (.seqEnableStreaming 0xFA 0xFA) .reset, rfl, by decide +kernel⟩

end Sys2Proof.Tests
end

section
/-! SUPPORT and CERTIFICATE for spec/10_state.md R24: the level of a Line, and who writes the device's drives. -/

namespace Sys2Proof.Machine

/-! ### The level of a Line -/

/-- Two open-drain drives let a Line rise only together. -/
theorem both_released_eq_false_iff (a b : Drive) : (a == .rel && b == .rel) = false ↔ a = .low ∨ b = .low := by
  cases a <;> cases b <;> decide

/-- R24 for CLOCK. -/
theorem level_clock_eq_false_iff (s : State) : level .clock s = false ↔ s.hostClock = .low ∨ s.devClock = .low := by
  rw [level_clock, both_released_eq_false_iff]

/-- R24 for DATA. -/
theorem level_data_eq_false_iff (s : State) : level .data s = false ↔ s.hostData = .low ∨ s.devData = .low := by
  rw [level_data, both_released_eq_false_iff]

/-! ### The device's drives, which the engine cannot write -/

/-- Two states in which the device drives the Lines alike (R24, `dev_drive`). -/
structure SameDeviceDrives (s t : State) : Prop where
  clock : t.devClock = s.devClock
  data  : t.devData = s.devData

theorem SameDeviceDrives.refl (s : State) : SameDeviceDrives s s := ⟨rfl, rfl⟩

theorem seqStep_sameDeviceDrives (s : State) : SameDeviceDrives s (seqStep s) :=
  ⟨(seqStep_turnFrame s).devClock, (seqStep_turnFrame s).devData⟩

/-- Latching operands that leave the device alone, a call leaves it alone, accepted or refused. -/
theorem requestCall_sameDeviceDrives (op : SeqOp) {latched s : State} (h : SameDeviceDrives s latched) :
    SameDeviceDrives s (requestCall op latched s) := by
  rcases requestCall_cases op latched s with ⟨-, e⟩ | ⟨-, e⟩
  · rw [e]; exact ⟨h.clock, h.data⟩
  · rw [e]; exact .refl s

theorem callPlain_sameDeviceDrives (op : SeqOp) (s : State) : SameDeviceDrives s (callPlain op s) :=
  requestCall_sameDeviceDrives op (.refl s)

theorem edgeAction_sameDeviceDrives (s : State) : SameDeviceDrives s (edgeAction s) := by
  rcases edgeAction_cases s with ⟨a, b, y, e⟩ | e
  · rw [e]; exact ⟨rfl, rfl⟩
  · rw [e]; exact ⟨rfl, rfl⟩

theorem edgeStep_sameDeviceDrives (s : State) : SameDeviceDrives s (edgeStep s) := by
  unfold edgeStep
  split
  · exact edgeAction_sameDeviceDrives s
  · exact .refl s

theorem frameStartStep_sameDeviceDrives (s : State) : SameDeviceDrives s (frameStartStep s) := by
  unfold frameStartStep
  split
  · exact ⟨clearFrame_devClock s, clearFrame_devData s⟩
  · exact .refl s

theorem tickStreamStep_sameDeviceDrives (s : State) : SameDeviceDrives s (tickStreamStep s) := by
  rw [tickStreamStep_eq]
  split
  · exact ⟨rfl, rfl⟩
  · exact .refl s

theorem tickPollStep_sameDeviceDrives (s : State) : SameDeviceDrives s (tickPollStep s) := by
  unfold tickPollStep
  split
  · exact ⟨rfl, rfl⟩
  · exact .refl s

/-- Every request on the command port and every event leaves the device's drives, `hw_reset` included: they are no
engine state (R24, log 19). -/
theorem portRow_sameDeviceDrives {i : Instr} {s t : State} (hp : isPortRow i = true) (he : exec i s = .next t) :
    SameDeviceDrives s t := by
  cases i <;> cases hp <;> cases he
  case writeByte v => exact requestCall_sameDeviceDrives _ ⟨rfl, rfl⟩
  case writeRam l v => exact requestCall_sameDeviceDrives _ ⟨rfl, rfl⟩
  case setSensitivityFactor v => exact requestCall_sameDeviceDrives _ ⟨rfl, rfl⟩
  case readByte => exact callPlain_sameDeviceDrives _ s
  case reset => exact callPlain_sameDeviceDrives _ s
  case enableStreaming => exact callPlain_sameDeviceDrives _ s
  case querySample => exact callPlain_sameDeviceDrives _ s
  case nop => exact .refl s
  case reservedCmd code => exact .refl s
  case edge => exact edgeStep_sameDeviceDrives s
  case frameStart => exact frameStartStep_sameDeviceDrives s
  case tickStream => exact tickStreamStep_sameDeviceDrives s
  case tickPoll => exact tickPollStep_sameDeviceDrives s
  case hwReset => exact ⟨rfl, rfl⟩

/-- Settles O22: the levels by the two open-drain drives, the frame of every port row and of every turn of the
sequencer, and the device's own entry, which sets its drives to anything. -/
theorem levelIsWiredAnd : Obligations.LevelIsWiredAnd := by
  refine ⟨fun s => ⟨level_clock_eq_false_iff s, level_data_eq_false_iff s⟩, ?ports, ?turns, ?device⟩
  case ports =>
    intro s t i hp he
    obtain ⟨hc, hd⟩ := portRow_sameDeviceDrives hp he
    exact ⟨hc, hd⟩
  case turns =>
    intro s
    obtain ⟨hc, hd⟩ := seqStep_sameDeviceDrives s
    exact ⟨hc, hd⟩
  case device => exact fun s c d => ⟨setDevice c d s, rfl, setDevice_devClock c d s, setDevice_devData c d s⟩

end Sys2Proof.Machine
end

section
/-! SUPPORT and CERTIFICATE for spec/42_edge_sampler.md R201 and R210: the edge detector, and the start of a frame. -/

namespace Sys2Proof.Machine

/-! ### The edge detector (R201) -/

/-- A Line is low after a change exactly where one of the two drives is low then. -/
theorem not_both_released (a b : Drive) : (!(a == .rel && b == .rel)) = (a == .low || b == .low) := by
  cases a <;> cases b <;> decide

/-- A Line that was high falls exactly where the host's new drive is low: the device's drive was released. -/
theorem level_clock_falls_by_host (d : Drive) (s : State) :
    (level .clock s && !level .clock { s with hostClock := d }) = (level .clock s && d == .low) := by
  rw [level_clock, level_clock, not_both_released]
  cases s.devClock
  case low => simp
  case rel => simp [show (Drive.rel == Drive.low) = false from rfl]

/-- The device's edge: the detector on a change of the device's drives, from either level of the host's. -/
theorem setDevice_detects (c d : Drive) (s : State) : setDevice c d s = { s with
    devClock := c, devData := d,
    edgePending := s.edgePending ||
      (s.mode == .streaming && !s.aborted && level .clock s && (s.hostClock == .low || c == .low)) } := by
  rw [setDevice, detectEdge_eq, level_clock { s with devClock := c, devData := d }, not_both_released]

/-- The host's edge: the detector on a change of the host's drive of CLOCK. -/
theorem setHost_clock_detects (d : Drive) (s : State) : setHost .clock d s = { s with
    hostClock := d,
    edgePending := s.edgePending || (s.mode == .streaming && !s.aborted && level .clock s && d == .low) } := by
  have hfall := level_clock_falls_by_host d s
  rw [setHost, detectEdge_eq]
  simp only [Bool.and_assoc, hfall]

/-- Settles O23: the two changes of a drive, and in POLLING the frame of a turn. -/
theorem edgeDetector : Obligations.EdgeDetector := by
  refine ⟨?device, ?host, ?polling⟩
  case device => exact fun s c d => congrArg _ (setDevice_detects c d s)
  case host => exact fun s d => setHost_clock_detects d s
  case polling => exact fun s => (seqStep_turnFrame s).noEdge

/-! ### The start of a frame (R210) -/

theorem frameStartStep_of_active {s : State} (hm : s.mode = .streaming) (ha : s.aborted = false) :
    frameStartStep s = clearFrame s := by
  simp [frameStartStep, hm, ha]

theorem frameStartStep_of_inactive {s : State} (h : s.mode = .polling ∨ s.aborted = true) : frameStartStep s = s := by
  rcases h with hm | ha
  · simp [frameStartStep, hm]
  · simp [frameStartStep, ha]

/-- Settles O25: an active sampler clears its frame, any other is left alone. -/
theorem frameStartDiscards : Obligations.FrameStartDiscards := by
  refine fun s => ⟨?active, ?inactive⟩
  case active => exact fun hm ha => congrArg _ (frameStartStep_of_active hm ha)
  case inactive => exact fun h => congrArg _ (frameStartStep_of_inactive h)

end Sys2Proof.Machine
end

section
/-! SUPPORT and CERTIFICATE for spec/43_report_dispatch.md R232 to R234: one dispatch period of the streaming variant,
and what keeps `data_available` clear between two ticks. -/

namespace Sys2Proof.Machine

/-! ### One dispatch period (R232, R233) -/

theorem tickStreamLegal_of_accepted {s : State} (hv : s.cfg.variant = .streaming) (ha : s.aborted = false)
    (hi : s.dispState = .idle) : tickStreamLegal s = true := by
  simp [tickStreamLegal, hv, ha, hi]

/-- T2: with no fresh Sample the period ends without a submission. -/
theorem tickStreamStep_stale {s : State} (hd : s.dataAvailable = false) : tickStreamStep s = s := by
  simp [tickStreamStep_eq, hd]

/-- T3 to T8: with a fresh Sample, one submission, and the answer INVALID alone leaves a trace. -/
theorem tickStreamStep_fresh {s : State} (hl : tickStreamLegal s = true) (hd : s.dataAvailable = true) :
    tickStreamStep s = { s with
      dataAvailable := false, report := formatReport s.cfg s.sample, rptValid := true,
      dispState := if s.rptResult = .invalid then .dispatching else .idle, aborted := s.rptResult == .invalid } := by
  simp [tickStreamStep_eq, hl, hd]

/-- An accepted tick leaves the flag clear "whatever it found" (R234). -/
theorem tickStreamStep_clears_dataAvailable {s : State} (hl : tickStreamLegal s = true) :
    (tickStreamStep s).dataAvailable = false := by
  cases hd : s.dataAvailable
  case false => rw [tickStreamStep_stale hd, hd]
  case true => rw [tickStreamStep_fresh hl hd]

/-- Settles O27: the empty case, and the two ends of a submission. -/
theorem tickStreamDispatches : Obligations.TickStreamDispatches := by
  intro s hv ha hi
  have hl := tickStreamLegal_of_accepted hv ha hi
  refine ⟨?stale, ?delivered, ?invalid⟩
  case stale => exact fun hd => congrArg _ (tickStreamStep_stale hd)
  case delivered =>
    intro hd hr
    refine congrArg _ ((tickStreamStep_fresh hl hd).trans ?_)
    simp [hr, ha, hi]
  case invalid =>
    intro hd hr
    refine congrArg _ ((tickStreamStep_fresh hl hd).trans ?_)
    simp [hr]

/-! ### What each move does to `data_available` -/

@[simp] theorem insertCell_bitIdx (d : Bool) (s : State) : (insertCell d s).bitIdx = s.bitIdx := by
  unfold insertCell; split <;> rfl

@[simp] theorem insertCell_byteIdx (d : Bool) (s : State) : (insertCell d s).byteIdx = s.byteIdx := by
  unfold insertCell; split <;> rfl

@[simp] theorem insertCell_dataAvailable (d : Bool) (s : State) :
    (insertCell d s).dataAvailable = s.dataAvailable := by
  unfold insertCell; split <;> rfl

/-- An `EDGE` here completes a frame: it is enabled, at the last cell of the third byte (R203, R205). -/
abbrev EdgePublishes (s : State) : Prop :=
  edgeEnabled s = true ∧ s.byteIdx = 2 ∧ s.bitIdx = 10

/-- The cursor moves on within the frame, or the frame is published. -/
theorem advanceCell_dataAvailable {s : State} (h : ¬ (s.byteIdx = 2 ∧ s.bitIdx = 10)) :
    (advanceCell s).dataAvailable = s.dataAvailable := by
  unfold advanceCell
  split
  · rfl
  · split
    · rfl
    · exact absurd ⟨by omega, by omega⟩ h

theorem edgeStep_dataAvailable {s : State} (h : ¬ EdgePublishes s) :
    (edgeStep s).dataAvailable = s.dataAvailable := by
  unfold edgeStep
  split
  · rename_i he
    have hlast : ¬ (s.byteIdx = 2 ∧ s.bitIdx = 10) := fun hp => h ⟨he, hp⟩
    rw [edgeAction, advanceCell_dataAvailable (by simpa using hlast), insertCell_dataAvailable]
  · rfl

@[simp] theorem frameStartStep_dataAvailable (s : State) :
    (frameStartStep s).dataAvailable = s.dataAvailable := by
  unfold frameStartStep
  split
  · exact clearFrame_dataAvailable s
  · rfl

@[simp] theorem tickPollStep_dataAvailable (s : State) : (tickPollStep s).dataAvailable = s.dataAvailable := by
  unfold tickPollStep; split <;> rfl

@[simp] theorem delayDone_dataAvailable (s : State) : (delayDone s).dataAvailable = s.dataAvailable := by
  unfold delayDone; split <;> rfl

/-- Latching operands on a clear flag, a call keeps it clear, accepted or refused. -/
theorem requestCall_keeps_stale (op : SeqOp) {latched s : State} (hl : latched.dataAvailable = false)
    (hs : s.dataAvailable = false) : (requestCall op latched s).dataAvailable = false := by
  rcases requestCall_cases op latched s with ⟨-, e⟩ | ⟨-, e⟩
  · rw [e, beginSequence_dataAvailable, hl]
  · rw [e, hs]

/-- Every request and every event keeps a clear flag clear, but an `EDGE` that publishes. -/
theorem portRow_keeps_stale {i : Instr} {s t : State} (hp : isPortRow i = true) (he : exec i s = .next t)
    (hn : i = .edge → ¬ EdgePublishes s) (hd : s.dataAvailable = false) : t.dataAvailable = false := by
  cases i <;> cases hp <;> cases he
  case writeByte v => exact requestCall_keeps_stale _ hd hd
  case readByte => exact requestCall_keeps_stale _ hd hd
  case reset => exact requestCall_keeps_stale _ hd hd
  case writeRam l v => exact requestCall_keeps_stale _ hd hd
  case setSensitivityFactor v => exact requestCall_keeps_stale _ hd hd
  case enableStreaming => exact requestCall_keeps_stale _ hd hd
  case querySample => exact requestCall_keeps_stale _ hd hd
  case nop => exact hd
  case reservedCmd code => exact hd
  case edge => exact (edgeStep_dataAvailable (hn rfl)).trans hd
  case frameStart => exact (frameStartStep_dataAvailable s).trans hd
  case tickStream => exact (congrArg State.dataAvailable (tickStreamStep_stale hd)).trans hd
  case tickPoll => exact (tickPollStep_dataAvailable s).trans hd
  case hwReset => rfl

/-! ### Single entries: the row they present does not depend on the build -/

/-- Any build reads a port row in a single entry: a word is decoded alike in all, and both ticks are port rows. -/
theorem isPortRow_of_isPrimitive {c d : Config} {e : Input} {i : Instr} (he : isPrimitive c e = true)
    (hr : rowOf d e = some i) : isPortRow i = true := by
  cases e with
  | word bytes =>
    rw [isPrimitive, show rowOf c (.word bytes) = some i from hr] at he
    exact he
  | tick =>
    cases hr
    unfold tickInstr
    split <;> rfl
  | device _ _ | sink _ | delayDone | seqTurn => cases hr

/-- An `EDGE` comes as a word, which every build decodes alike. -/
theorem rowOf_edge_of_any_build {c d : Config} {e : Input} (hr : rowOf d e = some .edge) :
    rowOf c e = some .edge := by
  cases e with
  | word bytes => exact hr
  | tick => cases hv : d.variant <;> simp [rowOf, tickInstr, hv] at hr
  | device _ _ | sink _ | delayDone | seqTurn => cases hr

/-- A single entry keeps a clear flag clear, but an `EDGE` that publishes. -/
theorem takeInput_keeps_stale {c : Config} {e : Input} {s t : State} (he : isPrimitive c e = true)
    (hn : rowOf c e = some .edge → ¬ EdgePublishes s) (ht : takeInput e s = .next t)
    (hd : s.dataAvailable = false) : t.dataAvailable = false := by
  rcases takeInput_cases ht with ⟨i, hr, hx⟩ | ⟨c', d', -, rfl⟩ | ⟨a, -, rfl⟩ | ⟨-, rfl⟩ | ⟨-, rfl⟩
  · refine portRow_keeps_stale (isPortRow_of_isPrimitive he hr) hx ?_ hd
    rintro rfl
    exact hn (rowOf_edge_of_any_build hr)
  · exact (setDevice_dataAvailable c' d' s).trans hd
  · exact hd
  · exact (delayDone_dataAvailable s).trans hd
  · exact (seqStep_turnFrame s).dataAvailable.trans hd

/-! ### Runs of single entries -/

theorem runInputs_cons_of_next {e : Input} {s t : State} (h : takeInput e s = .next t) (l : List Input) :
    runInputs (e :: l) s = runInputs l t := by
  simp [runInputs, h]

/-- A run that ends has a first entry that ends. -/
theorem runInputs_cons_cases {e : Input} {l : List Input} {s u : State} (h : runInputs (e :: l) s = some u) :
    ∃ t, takeInput e s = .next t ∧ runInputs l t = some u := by
  rw [runInputs] at h
  split at h
  · exact ⟨_, ‹_›, h⟩
  · cases h
  · cases h

/-- "With no publish in between" (R234): along the run of `l` from `s`, no `EDGE` stands where it publishes. -/
def NoPublishIn (c : Config) (l : List Input) (s : State) : Prop :=
  ∀ (before after : List Input) (e : Input) (v : State), l = before ++ e :: after →
    runInputs before s = some v → rowOf c e = some .edge → ¬ EdgePublishes v

theorem NoPublishIn.head {c : Config} {e : Input} {l : List Input} {s : State} (h : NoPublishIn c (e :: l) s) :
    rowOf c e = some .edge → ¬ EdgePublishes s :=
  h [] l e s rfl rfl

theorem NoPublishIn.tail {c : Config} {e : Input} {l : List Input} {s t : State} (h : NoPublishIn c (e :: l) s)
    (ht : takeInput e s = .next t) : NoPublishIn c l t := by
  intro before after e' v hl hv
  refine h (e :: before) after e' v (congrArg (e :: ·) hl) ?_
  rw [runInputs_cons_of_next ht, hv]

/-- Without a publish a clear flag stays clear along any run of single entries. -/
theorem runInputs_keeps_stale {c : Config} {l : List Input} {s u : State} (hp : ∀ e ∈ l, isPrimitive c e = true)
    (hn : NoPublishIn c l s) (hr : runInputs l s = some u) (hd : s.dataAvailable = false) :
    u.dataAvailable = false := by
  induction l generalizing s with
  | nil => cases hr; exact hd
  | cons e l ih =>
    obtain ⟨t, ht, hrest⟩ := runInputs_cons_cases hr
    obtain ⟨he, hl⟩ := List.forall_mem_cons.mp hp
    exact ih hl (hn.tail ht) hrest (takeInput_keeps_stale he hn.head ht hd)

/-- Settles O28: the first tick leaves the flag clear, the run keeps it clear, and a tick that finds it clear changes
nothing; a tick that finds it set offers the Sample. -/
theorem freshnessGating : Obligations.FreshnessGating := by
  refine ⟨?gated, ?offered⟩
  case gated =>
    intro s t u l hv ha hi ht hp hn hr
    cases ht
    have hclear := tickStreamStep_clears_dataAvailable (tickStreamLegal_of_accepted hv ha hi)
    exact congrArg _ (tickStreamStep_stale (runInputs_keeps_stale hp hn hr hclear))
  case offered =>
    intro s hv ha hi hd
    have hfresh := tickStreamStep_fresh (tickStreamLegal_of_accepted hv ha hi) hd
    exact ⟨tickStreamStep s, rfl, by rw [hfresh], by rw [hfresh]⟩

end Sys2Proof.Machine
end

section
/-! CERTIFICATE for spec/70_reset_and_hazards.md R301: the state after reset. -/

namespace Sys2Proof.Machine

/-- Settles O32: each conjunct is a field of `State.resetOf`, and none of these fields depends on the build's
parameters. -/
theorem resetState : Obligations.ResetState :=
  ⟨rfl, rfl, rfl, rfl, rfl, rfl, rfl, rfl, rfl, rfl, rfl, rfl, rfl, rfl, rfl, rfl⟩

end Sys2Proof.Machine
end

section
/-! SUPPORT and CERTIFICATE for spec/30_encoding.md R92 to R113: the decoder on the words of the encoder, and on any
other bytes. -/

namespace Sys2Proof

/-! ### Requests on the command port (R110, R113) -/

/-- A request of three bytes decodes to the operation its select code names (R110). -/
theorem decode_request (c : BitVec 4) (a b : Byte) (rest : List Byte) :
    decode (c.setWidth 8 :: a :: b :: rest) = .ok (commandOf c a b, rest) := by
  have hlt : (c.setWidth 8).toNat < 16 := by
    rw [BitVec.toNat_setWidth]
    exact (Nat.mod_le _ _).trans_lt c.isLt
  have hback : (c.setWidth 8).setWidth 4 = c := by
    rw [BitVec.setWidth_setWidth_of_le _ (by decide), BitVec.setWidth_eq]
  simp only [decode, hlt, if_true, hback]

/-- The codes from `0x8` on are reserved (R113). -/
theorem commandOf_reserved {c : BitVec 4} (h : 8 ≤ c.toNat) (a b : Byte) : commandOf c a b = .reservedCmd c := by
  have hne : ∀ k : BitVec 4, k.toNat < 8 → ¬ c = k := by
    rintro k hk rfl
    exact absurd h (by omega)
  simp (disch := decide) only [commandOf, hne, if_false]

theorem decode_reserved {c : BitVec 4} (h : 8 ≤ c.toNat) (a b : Byte) (rest : List Byte) :
    decode (c.setWidth 8 :: a :: b :: rest) = .ok (.reservedCmd c, rest) := by
  rw [decode_request, commandOf_reserved h]

/-! ### The words of the encoder -/

/-- The three wire formats of frames, behind their tags. -/
theorem decode_encode_frame (rest : List Byte) :
    (∀ v, decode (encode (.h2d v) ++ rest) = .ok (.h2d v, rest)) ∧
    (∀ f, decode (encode (.d2h f) ++ rest) = .ok (.d2h f, rest)) ∧
    ∀ a b c, decode (encode (.mov a b c) ++ rest) = .ok (.mov a b c, rest) := by
  refine ⟨fun v => ?_, fun f => ?_, fun a b c => ?_⟩
  · exact congrArg (Except.map (·, rest)) (decodeH2d_cells v)
  · exact congrArg (Except.map (·, rest)) (decodeD2h_cells f)
  · exact congrArg (Except.map (·, rest)) (decodeMov_cells a b c)

/-- The word of a well-formed instruction decodes to it, whatever bytes follow. -/
theorem decode_encode {i : Instr} (hi : i.wf = true) (rest : List Byte) :
    decode (encode i ++ rest) = .ok (i, rest) := by
  obtain ⟨hh2d, hd2h, hmov⟩ := decode_encode_frame rest
  cases i
  case reservedCmd c => exact decode_reserved (of_decide_eq_true hi) 0 0 rest
  case nop => exact decode_request 0x0 0 0 rest
  case writeByte v => exact decode_request 0x1 v 0 rest
  case readByte => exact decode_request 0x2 0 0 rest
  case reset => exact decode_request 0x3 0 0 rest
  case writeRam l v => exact decode_request 0x4 l v rest
  case setSensitivityFactor v => exact decode_request 0x5 v 0 rest
  case enableStreaming => exact decode_request 0x6 0 0 rest
  case querySample => exact decode_request 0x7 0 0 rest
  case h2d v => exact hh2d v
  case d2h f => exact hd2h f
  case mov a b c => exact hmov a b c
  all_goals rfl

/-- Settles O1, by the select codes, the three frame formats and the tags. -/
theorem decodeOfEncode : Obligations.DecodeOfEncode :=
  fun _ rest hi => decode_encode hi rest

/-- Settles O2: a request is well-formed by its code's range, and `decodeTagged_ok` says it of every other row. -/
theorem decodedIsWellFormed : Obligations.DecodedIsWellFormed := by
  intro bytes rest i h
  cases bytes with
  | nil => cases h
  | cons op l =>
    simp only [decode] at h
    split at h
    · split at h
      · obtain ⟨rfl, rfl⟩ := Prod.mk.inj (Except.ok.inj h)
        refine ⟨commandOf_wf _ _ _, ?_⟩
        simp only [List.length_cons]
        omega
      · cases h
    · obtain ⟨hwf, hlen⟩ := decodeTagged_ok h
      exact ⟨hwf, Nat.lt_succ_of_le hlen⟩

/-- Settles O3: the eight codes of R110 one by one, and the reserved ones by their range. -/
theorem selectCodes : Obligations.SelectCodes := fun a b =>
  ⟨decode_request 0x0 a b [], decode_request 0x1 a b [], decode_request 0x2 a b [], decode_request 0x3 a b [],
    decode_request 0x4 a b [], decode_request 0x5 a b [], decode_request 0x6 a b [], decode_request 0x7 a b [],
    fun _ hc => decode_reserved hc a b []⟩

/-- Settles O4: the decoder run on the words of spec/95_test_vectors.md part 2. -/
theorem wordsOfTheVectors : Obligations.WordsOfTheVectors := by
  refine ⟨?_, ?_, ?_, ?_, ?_, ?_, ?_, ?_, ?_, ?_, ?_⟩ <;> decide

end Sys2Proof
end

section
/-! SUPPORT and CERTIFICATE for the invariant `Inv` of Safety.lean: every step keeps it, the reset state of every build
has it, and so a run from reset never drives a Line in STREAMING (spec/70_reset_and_hazards.md R336). -/

namespace Sys2Proof.Machine

/-! ### Every step keeps a legal state legal -/

/-- Every request and every event, `hw_reset` included, leads from a legal state to a legal one. -/
theorem portRow_inv {i : Instr} {s t : State} (hp : isPortRow i = true) (h : Inv s) (he : exec i s = .next t) :
    Inv t := by
  cases i <;> cases hp <;> cases he
  case writeByte v => exact requestCall_inv _ h (by decide) (by constructor <;> rfl) rfl rfl rfl
  case readByte => exact requestCall_inv _ h (by decide) (by constructor <;> rfl) rfl rfl rfl
  case reset => exact requestCall_inv _ h (by decide) (by constructor <;> rfl) rfl rfl rfl
  case writeRam l v => exact requestCall_inv _ h (by decide) (by constructor <;> rfl) rfl rfl rfl
  case setSensitivityFactor v => exact requestCall_inv _ h (by decide) (by constructor <;> rfl) rfl rfl rfl
  case enableStreaming => exact requestCall_inv _ h (by decide) (by constructor <;> rfl) rfl rfl rfl
  case querySample => exact requestCall_inv _ h (by decide) (by constructor <;> rfl) rfl rfl rfl
  case nop => exact h
  case reservedCmd code => exact h
  case edge => exact edgeStep_inv h
  case frameStart => exact frameStartStep_inv h
  case tickStream => exact tickStreamStep_inv h
  case tickPoll => exact tickPollStep_inv h
  case hwReset => exact hardwareReset_inv s

theorem inv_keptByRows : KeptByRows Inv where
  port   := fun hp _ h he => portRow_inv hp h he
  turn   := seqStep_inv
  device := fun c d h => setDevice_inv h c d
  delay  := delayDone_inv
  record := fun l h => devFrame_inv h l
  report := fun p _ h => offer_inv h p

theorem step_inv {s t : State} (h : Inv s) (he : step s = .next t) : Inv t :=
  inv_keptByRows.every_step_kept (fun {s} _ => hardwareReset_inv s) (fun a _ h => sink_inv h a)
    (fun l => clearStrobes_inv h l) he

/-- Settles O52: what `Inv` is kept by one move at a time, `KeptByRows` carries to every step. -/
theorem stepKeepsInv : Obligations.StepKeepsInv :=
  fun _ _ h he => step_inv h he

/-! ### The reset state -/

/-- The reset state is legal in every build, whatever is placed. -/
theorem resetOf_inv (c : Config) (l : List Input) : Inv { State.resetOf c with inputs := l } := by
  constructor <;>
    simp [State.resetOf, VariantMode, StreamingQuiet, PollingAtRest, AccClear, BusyMatches, OpInVariant, PositionLegal,
      DrivesMatch, HoldOff, ParityMatches, DelayMatches, DispatchMatches, ReportMatches, drivesAt, positionLegal,
      labelPart]

/-- A free sequencer stands at no label, and so asks for no delay. -/
theorem free_noDelay {s : State} (h : Inv s) (hb : s.busy = false) : s.dlyReq = false := by
  have hidle : s.seqOp = .idle := by
    by_contra hop
    exact absurd (h.busyMatches.1.2 hop) (by simp [hb])
  have hpc : s.seqPc = .idle := h.busyMatches.2.1 hidle
  exact (no_delay h (by simp [hpc, stepKind])).1

/-- Settles O53: the parts of `Inv` on the reset values, and a free sequencer's delay port. -/
theorem resetIsLegal : Obligations.ResetIsLegal :=
  ⟨resetOf_inv Config.default [], fun c => resetOf_inv c [], fun _ h hb ha hm => ⟨hb, ha, hm, free_noDelay h hb⟩⟩

/-! ### Runs -/

theorem run_inv (n : Nat) : ∀ {s t : State}, Inv s → Host.Core.run Sys2Proof.core n s = Host.Outcome.next t → Inv t := by
  induction n with
  | zero =>
    intro s t h hr
    cases hr
    exact h
  | succ n ih =>
    intro s t h hr
    obtain ⟨u, hu, hrest⟩ := run_succ hr
    exact ih (step_inv h hu) hrest

/-- Settles O58: a run from reset stays legal, and a legal state in STREAMING is quiet. -/
theorem streamingLinesReleased : Obligations.StreamingLinesReleased :=
  fun c n l _ hr hm => (run_inv n (resetOf_inv c l) hr).streamingQuiet hm

end Sys2Proof.Machine
end

section
/-! CERTIFICATE for spec/60_exceptions.md R268, R270: what one step takes and runs. -/

namespace Sys2Proof.Machine

/-! ### One step -/

theorem step_of_inputs {s : State} {e : Input} {rest : List Input} (h : s.inputs = e :: rest) :
    step s = takeInput e (afterFetch rest s) := by
  simp only [step, h]

theorem step_of_nothing_placed {s : State} (h : s.inputs = []) : step s = .next (ownTurn (clearStrobes s)) := by
  simp only [step, h]

theorem runWord_of_decode {bytes more : List Byte} {i : Instr} (h : decode bytes = .ok (i, more)) (s : State) :
    runWord bytes s = exec i s := by
  simp only [runWord, h]

/-- Settles O7: what decodes is well-formed, and the entry in front is what a step takes. -/
theorem stepRunsDecodedWord : Obligations.StepRunsDecodedWord := by
  intro s bytes more rest i hin hdec
  obtain ⟨hwf, -⟩ := decodedIsWellFormed bytes more i hdec
  exact ⟨hwf, (step_of_inputs hin).trans (runWord_of_decode hdec _)⟩

/-- A completed delay is recorded where it was asked for. -/
theorem delayDone_eq (s : State) : delayDone s = { s with dlyDone := s.dlyReq || s.dlyDone } := by
  unfold delayDone
  split
  · rename_i h
    rw [show (s.dlyReq || s.dlyDone) = true by simp [h]]
  · rename_i h
    rw [show (s.dlyReq || s.dlyDone) = s.dlyDone by simp [h]]

/-- The two agents' turns where nothing is placed: a pending EDGE first (log 2). -/
theorem ownTurn_of_edge {s : State} (h : edgeEnabled s = true) : ownTurn s = edgeStep s := by
  simp only [ownTurn, edgeStep, h, if_true]

theorem ownTurn_of_no_edge {s : State} (h : edgeEnabled s = false) : ownTurn s = seqStep s := by
  simp only [ownTurn, h, Bool.false_eq_true, if_false]

/-- Settles O8: one equation for each kind of entry, and the two turns where there is none. -/
theorem stepTakesOtherEntries : Obligations.StepTakesOtherEntries := by
  intro s rest
  refine ⟨?refused, ?tick, ?device, ?sink, ?delay, ?turn, ?edge, ?sequencer⟩
  case refused =>
    intro bytes why hin hdec
    rw [step_of_inputs hin, takeInput, runWord, hdec]
  case tick => exact fun hin => step_of_inputs hin
  case device => exact fun c d hin => step_of_inputs hin
  case sink => exact fun a hin => step_of_inputs hin
  case delay =>
    intro hin
    rw [step_of_inputs hin, takeInput, delayDone_eq]
    rfl
  case turn => exact fun hin => step_of_inputs hin
  case edge => exact fun hin he => (step_of_nothing_placed hin).trans (congrArg _ (ownTurn_of_edge he))
  case sequencer => exact fun hin he => (step_of_nothing_placed hin).trans (congrArg _ (ownTurn_of_no_edge he))

/-- Settles O9: placing a word and taking it leaves the rest of `inputs` as it was. -/
theorem fetchWordIsRun : Obligations.FetchWordIsRun := by
  intro s nbits w i h
  rw [decodeTableWord] at h
  split at h
  · rename_i j more hdec
    cases h
    exact (step_of_inputs (s := s.withFetchWord nbits w) rfl).trans (runWord_of_decode hdec _)
  · cases h

/-! ### The parameters (R9, R10) -/

theorem edgeStep_cfg (s : State) : (edgeStep s).cfg = s.cfg := by
  unfold edgeStep
  split
  · rcases edgeAction_cases s with ⟨a, b, y, e⟩ | e
    · rw [e]
    · rw [e]
  · rfl

theorem requestCall_cfg (op : SeqOp) {latched s : State} (h : latched.cfg = s.cfg) :
    (requestCall op latched s).cfg = s.cfg := by
  rcases requestCall_cases op latched s with ⟨-, e⟩ | ⟨-, e⟩
  · rw [e, beginSequence_cfg, h]
  · rw [e]

theorem portRow_cfg {i : Instr} {s t : State} (hp : isPortRow i = true) (he : exec i s = .next t) : t.cfg = s.cfg := by
  cases i <;> cases hp <;> cases he
  case writeByte v => exact requestCall_cfg _ rfl
  case readByte => exact requestCall_cfg _ rfl
  case reset => exact requestCall_cfg _ rfl
  case writeRam l v => exact requestCall_cfg _ rfl
  case setSensitivityFactor v => exact requestCall_cfg _ rfl
  case enableStreaming => exact requestCall_cfg _ rfl
  case querySample => exact requestCall_cfg _ rfl
  case nop => rfl
  case reservedCmd code => rfl
  case edge => exact edgeStep_cfg s
  case frameStart => unfold frameStartStep; split <;> rfl
  case tickStream => rw [tickStreamStep_eq]; split <;> rfl
  case tickPoll => unfold tickPollStep; split <;> rfl
  case hwReset => rfl

theorem cfg_keptByRows (c : Config) : KeptByRows (fun s => s.cfg = c) where
  port   := fun hp _ h he => (portRow_cfg hp he).trans h
  turn   := fun {s} h => (seqStep_turnFrame s).cfg.trans h
  device := fun {s} c d h => (setDevice_cfg c d s).trans h
  delay  := fun {s} h => by rw [delayDone_eq]; exact h
  record := fun _ h => h
  report := fun p {s} _ h => by rw [offerReport_eq]; exact h

/-- Settles O10: no single move writes `cfg`, `hw_reset` included, and so no step does. -/
theorem parametersConstant : Obligations.ParametersConstant := fun s _ he =>
  (cfg_keptByRows s.cfg).every_step_kept (fun h => h) (fun _ _ h => h) (fun _ => rfl) he

end Sys2Proof.Machine
end

section
/-! CERTIFICATE for spec/30_encoding.md R110 to R114: the command port. -/

namespace Sys2Proof.Machine

/-! ### Acceptance and refusal -/

/-- A free sequencer in POLLING, in an engine that has not aborted, accepts every call that both variants have. -/
theorem callLegal_of_free {op : SeqOp} {s : State} (hb : s.busy = false) (ha : s.aborted = false)
    (hm : s.mode = .polling) (hop : op ≠ .querySample ∧ op ≠ .enableStreaming) : callLegal op s = true := by
  obtain ⟨hq, hes⟩ := hop
  cases op
  case querySample => exact absurd rfl hq
  case enableStreaming => exact absurd rfl hes
  all_goals simp [callLegal, hb, ha, hm]

theorem callLegal_enableStreaming {s : State} (hb : s.busy = false) (ha : s.aborted = false) (hm : s.mode = .polling)
    (hv : s.cfg.variant = .streaming) : callLegal .enableStreaming s = true := by
  simp [callLegal, hb, ha, hm, hv]

theorem callLegal_querySample {s : State} (hb : s.busy = false) (ha : s.aborted = false) (hm : s.mode = .polling)
    (hv : s.cfg.variant = .polling) : callLegal .querySample s = true := by
  simp [callLegal, hb, ha, hm, hv]

theorem requestCall_of_legal {op : SeqOp} {s : State} (h : callLegal op s = true) (latched : State) :
    requestCall op latched s = beginSequence op latched := by
  simp only [requestCall, h, if_true]

theorem requestCall_of_illegal {op : SeqOp} {s : State} (h : callLegal op s = false) (latched : State) :
    requestCall op latched s = s := by
  simp only [requestCall, h, Bool.false_eq_true, if_false]

/-- Settles O11: acceptance, and what each call latches. -/
theorem callsAccepted : Obligations.CallsAccepted := by
  intro s hb ha hm
  have accepted : ∀ op latched, op ≠ .querySample ∧ op ≠ .enableStreaming →
      requestCall op latched s = beginSequence op latched :=
    fun op latched hop => requestCall_of_legal (callLegal_of_free hb ha hm hop) latched
  exact ⟨fun v => congrArg _ (accepted .writeByte _ (by decide)), congrArg _ (accepted .readByte s (by decide)),
    congrArg _ (accepted .reset s (by decide)), fun l v => congrArg _ (accepted .writeRam _ (by decide)),
    fun v => congrArg _ (accepted .setSensitivityFactor _ (by decide))⟩

/-- Settles O12: acceptance by the build's variant. -/
theorem variantCallsAccepted : Obligations.VariantCallsAccepted := fun s hb ha hm =>
  ⟨fun hv => congrArg _ (requestCall_of_legal (callLegal_enableStreaming hb ha hm hv) s),
    fun hv => congrArg _ (requestCall_of_legal (callLegal_querySample hb ha hm hv) s)⟩

/-- While busy, after Abort and in STREAMING no call is legal. -/
theorem callLegal_of_not_free {s : State} (h : s.busy = true ∨ s.aborted = true ∨ s.mode = .streaming) (op : SeqOp) :
    callLegal op s = false := by
  rw [← Bool.not_eq_true]
  intro hl
  obtain ⟨hb, ha, hm⟩ := callLegal_free hl
  simp [hb, ha, hm] at h

/-- Settles O13: no call is legal there, and one that is not legal is no change of state. -/
theorem illegalCallsRefused : Obligations.IllegalCallsRefused := by
  intro s
  refine ⟨fun h => ?_, fun hv => ?query, fun hv => ?enable⟩
  · have refused : ∀ op latched, requestCall op latched s = s :=
      fun op latched => requestCall_of_illegal (callLegal_of_not_free h op) latched
    exact ⟨fun v => congrArg _ (refused .writeByte _), congrArg _ (refused .readByte s), congrArg _ (refused .reset s),
      fun l v => congrArg _ (refused .writeRam _), fun v => congrArg _ (refused .setSensitivityFactor _),
      congrArg _ (refused .enableStreaming s), congrArg _ (refused .querySample s)⟩
  case query => exact congrArg _ (requestCall_of_illegal (op := .querySample) (by simp [callLegal, hv]) s)
  case enable => exact congrArg _ (requestCall_of_illegal (op := .enableStreaming) (by simp [callLegal, hv]) s)

/-- Settles O14: the reserved codes by their range (R113), and two rows that are no change of state. -/
theorem nopAndReservedIgnored : Obligations.NopAndReservedIgnored :=
  ⟨fun _ => rfl, fun _ a b hc => ⟨decode_reserved hc a b [], fun _ => rfl⟩⟩

end Sys2Proof.Machine
end

section
/-! SUPPORT and CERTIFICATE for spec/40_protocol_engine.md R130 to R152 and spec/41_device_controller.md R170 to R183:
the turns of the sequencer, label by label. -/

namespace Sys2Proof.Machine

/-! ### A turn, by the kind of its micro-step (R130, R133, R134) -/

/-- An operation in progress in an engine that has not aborted. -/
structure InProgress (s : State) : Prop where
  busy  : s.busy = true
  alive : s.aborted = false

theorem InProgress.seqEnabled_eq {s : State} (h : InProgress s) : seqEnabled s = microReady s := by
  simp [seqEnabled, h.busy, h.alive]

theorem InProgress.seqStep_eq {s : State} (h : InProgress s) :
    seqStep s = if microReady s then microStep s else s := by
  rw [seqStep, h.seqEnabled_eq]

/-- An action completes at once. -/
theorem turn_action {s : State} {pc : Label} (h : InProgress s) (hpc : s.seqPc = pc) (hk : stepKind pc = .action) :
    seqStep s = microStep s := by
  subst hpc
  rw [h.seqStep_eq, if_pos]
  simp [microReady, hk]

/-- A `Delay` is asked for, then held until it is over. -/
theorem turn_delay {s : State} {pc next : Label} (h : InProgress s) (hpc : s.seqPc = pc) (hk : stepKind pc = .delay)
    (hm : microStep s = delayStep next s) : seqStep s = delayTurn (delayLength s.cfg pc) next s := by
  subst hpc
  have hr : microReady s = (!s.dlyReq || s.dlyDone) := by simp [microReady, hk]
  rw [h.seqStep_eq, hr, hm, delayStep, delayTurn]
  cases hq : s.dlyReq
  case false => simp [requestDelay]
  case true => simp [goto, endDelay]

/-- A `WaitUntil(c)` completes where `c` holds. -/
theorem turn_wait {s : State} {c : Bool} {next : Label} (h : InProgress s) (hr : microReady s = c)
    (hm : microStep s = goto next s) : seqStep s = waitTurn c next s := by
  rw [h.seqStep_eq, hr, hm, waitTurn]
  rfl

theorem microReady_waitLow {s : State} {pc : Label} (hpc : s.seqPc = pc) (hk : stepKind pc = .waitClock false) :
    microReady s = !level .clock s := by
  subst hpc
  simp [microReady, hk]

theorem microReady_waitHigh {s : State} {pc : Label} (hpc : s.seqPc = pc) (hk : stepKind pc = .waitClock true) :
    microReady s = level .clock s := by
  subst hpc
  simp [microReady, hk]

/-! ### Line actions in POLLING, where no edge is detected -/

section
variable {s : State} (hm : s.mode = .polling)
include hm

theorem driveLow_clock_polling : driveLow .clock s = { s with hostClock := .low } := setHost_polling _ _ _ hm

theorem driveLow_data_polling : driveLow .data s = { s with hostData := .low } := setHost_polling _ _ _ hm

theorem release_clock_polling : release .clock s = { s with hostClock := .rel } := setHost_polling _ _ _ hm

theorem release_data_polling : release .data s = { s with hostData := .rel } := setHost_polling _ _ _ hm

theorem release_both_polling : release .data (release .clock s) = { s with hostClock := .rel, hostData := .rel } := by
  rw [release_clock_polling hm]
  exact setHost_polling _ _ _ hm

theorem setData_polling (b : Bool) : setData b s = { s with hostData := if b then .rel else .low } :=
  setHost_polling _ _ _ hm

end

/-! ### `write_byte` (R135) -/

/-- Settles O15: at each label the kind of its micro-step and what it does in POLLING. -/
theorem writeByteProgram : Obligations.WriteByteProgram := by
  intro s hb ha hm
  have h : InProgress s := ⟨hb, ha⟩
  refine ⟨?wr0, ?operand, ?wr1, ?wr2, ?wr3, ?wr4, ?wr5, ?wr6, ?wr7, ?wr8, ?wr9a, ?wr9b, ?wr9c, ?wr9d, ?wr10a, ?wr10b,
    ?wr10c, ?wr11, ?wr12, ?wr13, ?wr14, ?wr15, ?alone⟩
  case operand => intro ho; simp only [callByte, ho]
  case wr0 => intro hpc; rw [turn_action h hpc rfl, microStep, hpc]; rfl
  case wr1 => intro hpc; rw [turn_action h hpc rfl, microStep, hpc]; simp only [release_both_polling hm, goto]
  case wr2 => exact fun hpc => turn_delay h hpc rfl (by rw [microStep, hpc])
  case wr3 => intro hpc; rw [turn_action h hpc rfl, microStep, hpc]; simp only [driveLow_clock_polling hm, goto]
  case wr4 => exact fun hpc => turn_delay h hpc rfl (by rw [microStep, hpc])
  case wr5 => intro hpc; rw [turn_action h hpc rfl, microStep, hpc]; simp only [driveLow_data_polling hm, goto]
  case wr6 => exact fun hpc => turn_delay h hpc rfl (by rw [microStep, hpc])
  case wr7 => intro hpc; rw [turn_action h hpc rfl, microStep, hpc]; simp only [release_clock_polling hm, goto]
  case wr8 => exact fun hpc => turn_wait h (microReady_waitLow hpc rfl) (by rw [microStep, hpc])
  case wr9a => intro hpc; rw [turn_action h hpc rfl, microStep, hpc]; simp only [setData_polling hm, goto]
  case wr9b => exact fun hpc => turn_wait h (microReady_waitHigh hpc rfl) (by rw [microStep, hpc])
  case wr9c => exact fun hpc => turn_wait h (microReady_waitLow hpc rfl) (by rw [microStep, hpc])
  case wr9d => intro hpc; rw [turn_action h hpc rfl, microStep, hpc]; rfl
  case wr10a => intro hpc; rw [turn_action h hpc rfl, microStep, hpc]; simp only [setData_polling hm, goto]
  case wr10b => exact fun hpc => turn_wait h (microReady_waitHigh hpc rfl) (by rw [microStep, hpc])
  case wr10c => exact fun hpc => turn_wait h (microReady_waitLow hpc rfl) (by rw [microStep, hpc])
  case wr11 => intro hpc; rw [turn_action h hpc rfl, microStep, hpc]; simp only [release_data_polling hm, goto]
  case wr12 => exact fun hpc => turn_delay h hpc rfl (by rw [microStep, hpc])
  case wr13 => exact fun hpc => turn_wait h (by simp [microReady, stepKind, hpc]) (by rw [microStep, hpc])
  case wr14 => exact fun hpc => turn_wait h (by simp [microReady, stepKind, hpc]) (by rw [microStep, hpc])
  case wr15 =>
    intro hpc
    rw [turn_action h hpc rfl, ← driveLow_clock_polling hm]
    rw [microStep, hpc]
  case alone =>
    intro hpc ho hi
    rw [turn_action h hpc rfl, microStep, hpc]
    simp only [driveLow_clock_polling hm]
    rw [returnToCaller_last]
    · rfl
    · simp [ho, hi, lastIdx]
    · simp [ho]

/-! ### Bits of a byte -/

/-- `v[i] <- b` puts `b` at bit `i` and leaves every other bit (spec/00_scope.md R12). -/
theorem getLsbD_setBit (v : Byte) {i : Nat} (hi : i < 8) (b : Bool) (k : Nat) :
    (setBit v i b).getLsbD k = if k = i then b else v.getLsbD k := by
  have hone : (1#8 <<< i).getLsbD k = decide (k = i) := by
    rw [BitVec.getLsbD_shiftLeft, BitVec.getLsbD_one]
    by_cases hk : k = i
    · simp [hk, hi]
    · simp [hk]
      omega
  unfold setBit
  split
  · rename_i hb
    rw [BitVec.getLsbD_or, hone, hb]
    by_cases hk : k = i <;> simp [hk]
  · rename_i hb
    rw [BitVec.getLsbD_and, BitVec.getLsbD_not, hone, eq_false_of_ne_true hb]
    by_cases hk : k = i
    · simp [hk]
    · by_cases hlt : k < 8
      · simp [hk, hlt]
      · simp [hk, BitVec.getLsbD_of_ge v k (by omega)]

theorem getLsbD_setBit_same (v : Byte) {i : Nat} (hi : i < 8) (b : Bool) : (setBit v i b).getLsbD i = b := by
  rw [getLsbD_setBit v hi, if_pos rfl]

theorem getLsbD_setBit_other (v : Byte) {i k : Nat} (hi : i < 8) (b : Bool) (hk : k ≠ i) :
    (setBit v i b).getLsbD k = v.getLsbD k := by
  rw [getLsbD_setBit v hi, if_neg hk]

/-! ### `read_byte` (R145) -/

/-- Settles O16: at each label the kind of its micro-step; RD6b by the bit it sets. -/
theorem readByteProgram : Obligations.ReadByteProgram := by
  intro s hb ha hm
  have h : InProgress s := ⟨hb, ha⟩
  refine ⟨?rd0, ?rd1, ?rd2, ?rd3, ?rd4, ?rd5, ?rd6a, ?rd6b, ?rd6c, ?rd7a, ?rd7b, ?rd8a, ?rd8b, ?rd9, ?rd10, ?alone⟩
  case rd0 => intro hpc; rw [turn_action h hpc rfl, microStep, hpc]; rfl
  case rd1 => intro hpc; rw [turn_action h hpc rfl, microStep, hpc]; simp only [release_both_polling hm, goto]
  case rd2 => exact fun hpc => turn_delay h hpc rfl (by rw [microStep, hpc])
  case rd3 => exact fun hpc => turn_wait h (microReady_waitLow hpc rfl) (by rw [microStep, hpc])
  case rd4 => exact fun hpc => turn_delay h hpc rfl (by rw [microStep, hpc])
  case rd5 => exact fun hpc => turn_wait h (microReady_waitHigh hpc rfl) (by rw [microStep, hpc])
  case rd6a => exact fun hpc => turn_wait h (microReady_waitLow hpc rfl) (by rw [microStep, hpc])
  case rd6b =>
    intro hpc
    refine ⟨setBit s.rx s.bitCnt.val (level .data s), getLsbD_setBit_same _ s.bitCnt.isLt _,
      fun k hk => getLsbD_setBit_other _ s.bitCnt.isLt _ hk, ?_⟩
    rw [turn_action h hpc rfl, microStep, hpc]
    rfl
  case rd6c =>
    intro hpc
    rw [h.seqStep_eq, microReady_waitHigh hpc rfl, microStep, hpc]
    cases hc : level .clock s
    case false => simp [waitTurn]
    case true => by_cases hlt : s.bitCnt.val < 7 <;> simp [waitTurn, nextBit, goto, hlt]
  case rd7a => exact fun hpc => turn_wait h (microReady_waitLow hpc rfl) (by rw [microStep, hpc])
  case rd7b => exact fun hpc => turn_wait h (microReady_waitHigh hpc rfl) (by rw [microStep, hpc])
  case rd8a => exact fun hpc => turn_wait h (microReady_waitLow hpc rfl) (by rw [microStep, hpc])
  case rd8b => exact fun hpc => turn_wait h (microReady_waitHigh hpc rfl) (by rw [microStep, hpc])
  case rd9 => intro hpc; rw [turn_action h hpc rfl, microStep, hpc]; simp only [driveLow_clock_polling hm, goto]
  case rd10 => intro hpc; rw [turn_action h hpc rfl, microStep, hpc]
  case alone =>
    intro hpc ho hi
    rw [turn_action h hpc rfl, microStep, hpc]
    simp only [keepReadByte, ho]
    rw [returnToCaller_last]
    · rfl
    · simp [ho, hi, lastIdx]
    · simp [ho]

/-! ### The composite operations (R170 to R183) -/

/-- The end of `query_sample`'s calls in a `TICK_POLL`: on to P3 (spec/43_report_dispatch.md R240). -/
theorem returnToCaller_tickPoll {s : State} (h : s.cmdIdx = lastIdx s.seqOp) (ho : s.seqOp = .tickPoll) :
    returnToCaller s = { s with seqPc := .p3 } := by
  simp only [returnToCaller, if_pos h]
  split
  · rfl
  · exact absurd ho (by assumption)

/-- Settles O17: the tables of labels and operands of each operation, and the three ends of a call. -/
theorem compositeSequences : Obligations.CompositeSequences := by
  refine ⟨?writeRam, ?enableStreaming, ?query, fun s => ⟨?next, ?last, ?report⟩⟩
  case writeRam =>
    rintro s (ho | ho) <;> rw [ho] <;>
      refine ⟨by decide, rfl, fun hi => ?_, fun hi => ?_, fun hi => ?_, fun hi => ?_, ?_⟩ <;>
      simp [callByte, keepReadByte, *]
  case enableStreaming =>
    intro s ho
    rw [ho]
    refine ⟨by decide, rfl, fun hi => ?_, fun hi => ?_, ?_⟩ <;> simp [callByte, keepReadByte, *]
  case query =>
    rintro s (ho | ho) <;> rw [ho] <;>
      refine ⟨by decide, rfl, ?_, fun hi => ?_, fun hi => ?_, fun hi => ?_, fun hi => ?_⟩ <;>
      simp [callByte, keepReadByte, *]
  case next => exact returnToCaller_more
  case last => exact returnToCaller_last
  case report => exact returnToCaller_tickPoll

/-! ### Where the sequencer can hang (R133, R262) -/

theorem stepKind_waitLow_iff (pc : Label) :
    stepKind pc = .waitClock false ↔ pc ∈ [.wr8, .wr9c, .wr10c, .rd3, .rd6a, .rd7a, .rd8a] := by
  cases pc <;> decide

theorem stepKind_waitHigh_iff (pc : Label) :
    stepKind pc = .waitClock true ↔ pc ∈ [.wr9b, .wr10b, .rd5, .rd6c, .rd7b, .rd8b] := by
  cases pc <;> decide

theorem stepKind_waitBothLow_iff (pc : Label) : stepKind pc = .waitBoth false ↔ pc = .wr13 := by
  cases pc <;> decide

theorem stepKind_waitBothHigh_iff (pc : Label) : stepKind pc = .waitBoth true ↔ pc = .wr14 := by
  cases pc <;> decide

theorem stepKind_none_iff (pc : Label) : stepKind pc = .none ↔ pc = .idle := by
  cases pc <;> decide

/-- A micro-step with no delay outstanding cannot complete exactly where it is a `WaitUntil` whose condition fails. -/
theorem not_microReady_iff {s : State} (hpc : s.seqPc ≠ .idle) (hq : s.dlyReq = false) : microReady s = false ↔
    (stepKind s.seqPc = .waitClock false ∧ level .clock s = true) ∨
    (stepKind s.seqPc = .waitClock true ∧ level .clock s = false) ∨
    (stepKind s.seqPc = .waitBoth false ∧ ¬ (level .clock s = false ∧ level .data s = false)) ∨
    (stepKind s.seqPc = .waitBoth true ∧ ¬ (level .clock s = true ∧ level .data s = true)) := by
  have hn : stepKind s.seqPc ≠ .none := fun hk => hpc ((stepKind_none_iff _).1 hk)
  unfold microReady
  cases hk : stepKind s.seqPc
  case none => exact absurd hk hn
  case action => simp
  case delay => simp [hq]
  case waitClock b => cases b <;> simp
  case waitBoth b => cases b <;> simp

/-- Settles O18: the labels of each kind of wait, and a turn that is not enabled. -/
theorem hangPoints : Obligations.HangPoints := by
  intro s hb ha hpc hq
  have h : InProgress s := ⟨hb, ha⟩
  have hkinds := not_microReady_iff hpc hq
  rw [stepKind_waitLow_iff, stepKind_waitHigh_iff, stepKind_waitBothLow_iff, stepKind_waitBothHigh_iff] at hkinds
  refine ⟨by rw [h.seqEnabled_eq, hkinds], fun hen => ?_⟩
  rw [takeInput, seqStep, hen]
  rfl

/-! ### `reset()`, ES_FINAL and the tail of `TICK_POLL` (R171, R180, R240) -/

theorem callPlain_of_ready {s : State} (h : Ready s) {op : SeqOp} (hop : op ≠ .querySample ∧ op ≠ .enableStreaming) :
    callPlain op s = beginSequence op s :=
  requestCall_of_legal (callLegal_of_free h.free h.alive h.polling hop) s

/-- The state that a whole `reset()` leaves. -/
def pulsed (s : State) : State :=
  { s with
    resetOut := false, busy := false, seqOp := .idle, seqPc := .idle, cmdIdx := 0, rspValid := true,
    dlyReq := false, dlyLen := s.cfg.tResetHold, dlyDone := false }

/-- The pulse whole: RS0, the delay asked for and over, RS1, RS2. -/
theorem settle_reset {s : State} (h : Ready s) : settle (beginSequence .reset s) = pulsed s := by
  obtain ⟨hb, ha, hm, hq⟩ := h
  rw [settle, show (40 : Nat) = 5 + 35 from rfl, settleFor_add, settleFor_rest]
  all_goals
    simp [settleFor, canSettle, settleStep, edgeEnabled_polling, seqEnabled, microReady, stepKind, delayPending,
      microStep, delayStep, requestDelay, endDelay, delayDone, delayLength, completeCall, goto, beginSequence,
      entryLabel, pulsed, ha, hm, hq]

/-- Settles O19: the three labels, and the pulse whole. -/
theorem resetPulse : Obligations.ResetPulse := by
  refine ⟨fun s hb ha => ⟨?rs0, ?rs1, ?rs2⟩, fun s h => ?whole⟩
  case rs0 => intro hpc; rw [turn_action ⟨hb, ha⟩ hpc rfl, microStep, hpc]; rfl
  case rs1 => exact fun hpc => turn_delay ⟨hb, ha⟩ hpc rfl (by rw [microStep, hpc])
  case rs2 => intro hpc; rw [turn_action ⟨hb, ha⟩ hpc rfl, microStep, hpc]; rfl
  case whole =>
    have hl : callLegal .reset s = true := callLegal_of_free h.free h.alive h.polling (by decide)
    rw [exec, execResetPulse, if_pos hl, callPlain_of_ready h (by decide), settle_reset h, pulsed]

/-- A turn with no operation in progress does nothing. -/
theorem seqStep_of_free {s : State} (hb : s.busy = false) : seqStep s = s := by
  simp [seqStep, seqEnabled, hb]

/-- P3 with P4 and P5 (log 14). -/
theorem microStep_p3 {s : State} (hpc : s.seqPc = .p3) : microStep s =
    if (offerReport (setReport s.q s)).aborted then offerReport (setReport s.q s)
    else goto .p6 (offerReport (setReport s.q s)) := by
  rw [microStep, hpc]

/-- Settles O21: P3 by the sink's answer, and P6. -/
theorem tickPollTail : Obligations.TickPollTail := by
  intro s hb ha
  have h : InProgress s := ⟨hb, ha⟩
  refine ⟨?invalid, ?delivered, ?p6⟩
  case invalid =>
    intro hpc hr
    rw [turn_action h hpc rfl, microStep_p3 hpc]
    simp [offerReport_eq, setReport, hr]
  case delivered =>
    intro hpc hr
    rw [turn_action h hpc rfl, microStep_p3 hpc]
    simp [offerReport_eq, setReport, goto, hr, ha]
  case p6 => intro hpc; rw [turn_action h hpc rfl, microStep, hpc]

end Sys2Proof.Machine

namespace Sys2Proof

open Machine

/-- Settles O20: ES_FINAL is an action, and in POLLING its releases make no edge. -/
theorem esFinalStep : Obligations.EsFinalStep := by
  refine ⟨fun s hb ha hm hpc => ?final, fun s _ hb => seqStep_of_free hb⟩
  case final =>
    rw [turn_action ⟨hb, ha⟩ hpc rfl, microStep, hpc]
    simp only [Machine.esFinalStep, release_both_polling hm]
    rfl

end Sys2Proof
end

section
/-! SUPPORT and CERTIFICATE for spec/42_edge_sampler.md R203 to R206: one `EDGE`. -/

namespace Sys2Proof.Machine

/-! ### Where `EDGE` is enabled -/

theorem edgeStep_of_disabled {s : State} (h : edgeEnabled s = false) : edgeStep s = s := by
  simp only [edgeStep, h, Bool.false_eq_true, if_false]

theorem edgeStep_of_enabled {s : State} (h : edgeEnabled s = true) : edgeStep s = edgeAction s := by
  simp only [edgeStep, h, if_true]

theorem edgeEnabled_iff (s : State) : edgeEnabled s = true ↔
    s.edgePending = true ∧ s.mode = .streaming ∧ s.aborted = false ∧
      ¬ (s.cfg.variant = .streaming ∧ s.dispState = .dispatching) := by
  simp only [edgeEnabled, dispatcherHoldsCache, Bool.and_eq_true, Bool.not_eq_true', beq_iff_eq, Bool.and_eq_false_iff,
    beq_eq_false_iff_ne, not_and_or]
  tauto

/-! ### The cells (R204, R205) -/

/-- START, P and STOP are discarded. -/
theorem insertCell_framing (d : Bool) {s : State} (h : ¬ (1 ≤ s.bitIdx.val ∧ s.bitIdx.val ≤ 8)) :
    insertCell d s = s := by
  rw [insertCell, if_neg h]

/-- A data cell. -/
theorem insertCell_data (d : Bool) {s : State} (h : 1 ≤ s.bitIdx.val ∧ s.bitIdx.val ≤ 8) : insertCell d s = { s with
    acc := setAccByte s.acc s.byteIdx (setBit (accByte s.acc s.byteIdx) (s.bitIdx.val - 1) d) } := by
  rw [insertCell, if_pos h]

theorem advanceCell_next {s : State} (h : s.bitIdx.val < 10) :
    advanceCell s = { s with bitIdx := s.bitIdx + 1 } := by
  rw [advanceCell, if_pos h]

theorem advanceCell_byte {s : State} (hb : s.bitIdx = 10) (hy : s.byteIdx ≠ 2) :
    advanceCell s = { s with bitIdx := 0, byteIdx := s.byteIdx + 1 } := by
  have hlt : s.byteIdx.val < 2 := by omega
  rw [advanceCell, if_neg (by simp [hb]), if_pos hlt]

theorem advanceCell_frame {s : State} (hb : s.bitIdx = 10) (hy : s.byteIdx = 2) :
    advanceCell s = clearFrame (cachePublish (accSample s.acc) s) := by
  rw [advanceCell, if_neg (by simp [hb]), if_neg (by simp [hy])]

end Sys2Proof.Machine

namespace Sys2Proof

open Machine

/-- Settles O24: where `EDGE` is enabled, and its cells by `bit_idx`: START and P, a data cell, STOP of an earlier byte
and STOP of the third. -/
theorem edgeStep : Obligations.EdgeStep := by
  intro s
  refine ⟨fun h => ?disabled, fun hp hm ha hd => ?enabled⟩
  case disabled =>
    refine congrArg _ (edgeStep_of_disabled ?_)
    rw [← Bool.not_eq_true, edgeEnabled_iff]
    rintro ⟨hp, hm, ha, hd⟩
    simp [hp, hm, ha, hd] at h
  case enabled =>
    have hstep := edgeStep_of_enabled ((edgeEnabled_iff s).2 ⟨hp, hm, ha, hd⟩)
    refine ⟨fun hb => ?framing, fun h1 h8 => ?data, fun hb hy => ?byte, fun hb hy => ?frame⟩
    case framing =>
      refine congrArg _ (hstep.trans ?_)
      rw [edgeAction, insertCell_framing, advanceCell_next]
      all_goals rcases hb with hb | hb <;> simp [hb]
    case data =>
      refine ⟨setBit (accByte s.acc s.byteIdx) (s.bitIdx.val - 1) (level .data s), getLsbD_setBit_same _ (by omega) _,
        fun k hk => getLsbD_setBit_other _ (by omega) _ hk, congrArg _ (hstep.trans ?_)⟩
      rw [edgeAction, insertCell_data (s := { s with edgePending := false }) _ ⟨h1, h8⟩]
      exact advanceCell_next (show s.bitIdx.val < 10 by omega)
    case byte =>
      refine congrArg _ (hstep.trans ?_)
      rw [edgeAction, insertCell_framing _ (by simp [hb])]
      exact advanceCell_byte hb hy
    case frame =>
      refine congrArg _ (hstep.trans ?_)
      rw [edgeAction, insertCell_framing _ (by simp [hb])]
      exact advanceCell_frame hb hy

end Sys2Proof
end

section
/-! SUPPORT and CERTIFICATE for spec/43_report_dispatch.md R231 to R237 and spec/30_encoding.md R106, R107: ticks, the
report mapping and the record. -/

namespace Sys2Proof.Machine

/-! ### Ticks (R231, R241) -/

theorem tickInstr_streaming {c : Config} (hv : c.variant = .streaming) : tickInstr c = .tickStream := by
  simp only [tickInstr, hv]

theorem tickInstr_polling {c : Config} (hv : c.variant = .polling) : tickInstr c = .tickPoll := by
  simp only [tickInstr, hv]

theorem tickStreamStep_of_illegal {s : State} (h : tickStreamLegal s = false) : tickStreamStep s = s := by
  simp [tickStreamStep_eq, h]

theorem tickPollStep_of_illegal {s : State} (h : tickPollLegal s = false) : tickPollStep s = s := by
  simp [tickPollStep, h]

/-- Settles O26: the variant's operation, the tests that drop a tick, and P1 of R240. -/
theorem tickAcceptance : Obligations.TickAcceptance := by
  intro s
  have hstream : s.cfg.variant = .streaming → takeInput .tick s = exec .tickStream s := fun hv => by
    rw [takeInput, tickInstr_streaming hv]
  have hpoll : s.cfg.variant = .polling → takeInput .tick s = exec .tickPoll s := fun hv => by
    rw [takeInput, tickInstr_polling hv]
  refine ⟨hstream, hpoll, fun h => ?dropped, fun hv hb => ?busy, fun hv hd => ?stale, fun hv ha hi hb => ?accepted⟩
  case dropped =>
    cases hv : s.cfg.variant
    case polling =>
      exact (hpoll hv).trans (congrArg _ (tickPollStep_of_illegal (by rcases h with h | h <;> simp [tickPollLegal, h])))
    case streaming =>
      exact (hstream hv).trans
        (congrArg _ (tickStreamStep_of_illegal (by rcases h with h | h <;> simp [tickStreamLegal, h])))
  case busy => exact (hpoll hv).trans (congrArg _ (tickPollStep_of_illegal (by simp [tickPollLegal, hb])))
  case stale => exact (hstream hv).trans (congrArg _ (tickStreamStep_stale hd))
  case accepted =>
    rw [exec, execTickPoll, tickPollStep, if_pos (by simp [tickPollLegal, hv, ha, hi, hb])]
    rfl

/-! ### The record (R106, R107) -/

/-- A report of a Sample, assembled and offered, with what follows from the sink's answer. -/
theorem offerReport_setReport (p : Sample) (s : State) : offerReport (setReport p s) = { s with
    report := formatReport s.cfg p, rptValid := true, aborted := s.aborted || s.rptResult == .invalid } :=
  offerReport_eq _

/-- Settles O30: the offer by the sink's answer, and nothing after Abort. -/
theorem rptOffered : Obligations.RptOffered := by
  intro s p
  refine ⟨fun ha hr => ?delivered, fun ha hr => ?invalid, fun ha => ?aborted⟩
  case delivered =>
    rw [exec, execRpt, if_neg (by simp [ha]), offerReport_setReport]
    simp [ha, hr]
  case invalid =>
    rw [exec, execRpt, if_neg (by simp [ha]), offerReport_setReport]
    simp [hr]
  case aborted => rw [exec, execRpt, if_pos ha]

end Sys2Proof.Machine

namespace Sys2Proof

open Machine

/-- Settles O29: the negation of a signed byte leaves the byte's range at -128 only (R237). -/
theorem formatReport : Obligations.FormatReport := by
  intro c p
  have hlo : -128 ≤ p.y.toInt := BitVec.le_toInt p.y
  have hhi : p.y.toInt < 128 := BitVec.toInt_lt
  refine ⟨rfl, by simp [Machine.formatReport], rfl, rfl, fun hy => ?negated, fun hy hn => ?saturated, fun hy hn => ?wrapped⟩
  case negated =>
    have hneg : negY c.neg128 p.y.toInt = -p.y.toInt := by simp only [negY, if_neg hy]
    rw [Machine.formatReport, hneg]
    exact BitVec.toInt_ofInt_eq_self (by decide) (by omega) (by omega)
  case saturated =>
    simp only [Machine.formatReport, negY, if_pos hy, hn]
    rfl
  case wrapped =>
    simp only [Machine.formatReport, negY, if_pos hy, hn]
    rfl

end Sys2Proof
end

section
/-! SUPPORT and CERTIFICATE for spec/70_reset_and_hazards.md R300, R301 and spec/60_exceptions.md R266: `hw_reset` and
Abort. -/

namespace Sys2Proof.Machine

/-- Settles O31: each conjunct is a field of `hardwareReset`. -/
theorem hwResetState : Obligations.HwResetState := fun s =>
  ⟨hardwareReset s, rfl, rfl, rfl, rfl, rfl, rfl, rfl, rfl, rfl, rfl, rfl, rfl, rfl, rfl, rfl, rfl, rfl, rfl, rfl, rfl,
    rfl, rfl, rfl⟩

/-! ### After Abort no agent has a step -/

theorem seqStep_of_aborted {s : State} (ha : s.aborted = true) : seqStep s = s := by
  simp [seqStep, seqEnabled, ha]

theorem edgeStep_of_aborted {s : State} (ha : s.aborted = true) : edgeStep s = s :=
  edgeStep_of_disabled (by simp [edgeEnabled, ha])

theorem requestCall_of_aborted (op : SeqOp) (latched : State) {s : State} (ha : s.aborted = true) :
    requestCall op latched s = s :=
  requestCall_of_illegal (callLegal_of_not_free (.inr (.inl ha)) op) latched

theorem setDevice_of_aborted (c d : Drive) {s : State} (ha : s.aborted = true) :
    setDevice c d s = { s with devClock := c, devData := d } := by
  simp [setDevice, detectEdge, ha]

/-- After Abort no request and no event but `hw_reset` changes anything. -/
theorem portRow_of_aborted {i : Instr} {s t : State} (hp : isPortRow i = true) (hi : i ≠ .hwReset)
    (ha : s.aborted = true) (he : exec i s = .next t) : t = s := by
  cases i <;> cases hp <;> cases he
  case writeByte v => exact requestCall_of_aborted _ _ ha
  case readByte => exact requestCall_of_aborted _ _ ha
  case reset => exact requestCall_of_aborted _ _ ha
  case writeRam l v => exact requestCall_of_aborted _ _ ha
  case setSensitivityFactor v => exact requestCall_of_aborted _ _ ha
  case enableStreaming => exact requestCall_of_aborted _ _ ha
  case querySample => exact requestCall_of_aborted _ _ ha
  case nop => rfl
  case reservedCmd code => rfl
  case edge => exact edgeStep_of_aborted ha
  case frameStart => exact frameStartStep_of_inactive (.inr ha)
  case tickStream => exact tickStreamStep_of_illegal (by simp [tickStreamLegal, ha])
  case tickPoll => exact tickPollStep_of_illegal (by simp [tickPollLegal, ha])
  case hwReset => exact absurd rfl hi

/-- The engine has aborted, and apart from the outside it is the engine `e`. -/
def AbortedAs (e s : State) : Prop := s.aborted = true ∧ engineOf s = e

/-- Nothing but `hw_reset` moves an aborted engine. -/
theorem abortedAs_keptByRows (e : State) : KeptByRows (AbortedAs e) where
  port   := fun hp hi h he => by rwa [portRow_of_aborted hp hi h.1 he]
  turn   := fun h => by rwa [seqStep_of_aborted h.1]
  device := fun c d h => by rw [setDevice_of_aborted c d h.1]; exact h
  delay  := fun {s} h => by rw [delayDone_eq]; exact h
  record := fun _ h => h
  report := fun _ ha h => absurd h.1 (by simp [ha])

/-! ### Abort comes from the sink's answer INVALID -/

/-- The sink answers `a`, and where that is not INVALID the engine has not aborted. -/
def AbortedByInvalid (a : SinkAnswer) (s : State) : Prop := s.rptResult = a ∧ (s.aborted = true → a = .invalid)

theorem requestCall_abortedByInvalid {a : SinkAnswer} (op : SeqOp) {latched s : State} (hl : AbortedByInvalid a latched)
    (hs : AbortedByInvalid a s) : AbortedByInvalid a (requestCall op latched s) := by
  rcases requestCall_cases op latched s with ⟨-, e⟩ | ⟨-, e⟩
  · rw [e]; exact hl
  · rw [e]; exact hs

theorem edgeStep_abortedByInvalid {a : SinkAnswer} {s : State} (h : AbortedByInvalid a s) :
    AbortedByInvalid a (edgeStep s) := by
  cases he : edgeEnabled s
  case false => rwa [edgeStep_of_disabled he]
  case true =>
    rw [edgeStep_of_enabled he]
    rcases edgeAction_cases s with ⟨x, b, y, e⟩ | e
    · rw [e]; exact h
    · rw [e]; exact h

theorem tickStreamStep_abortedByInvalid {a : SinkAnswer} {s : State} (h : AbortedByInvalid a s) :
    AbortedByInvalid a (tickStreamStep s) := by
  obtain ⟨rfl, h⟩ := h
  rw [tickStreamStep_eq]
  split
  · exact ⟨rfl, fun ha => beq_iff_eq.1 ha⟩
  · exact ⟨rfl, h⟩

theorem portRow_abortedByInvalid {a : SinkAnswer} {i : Instr} {s t : State} (hp : isPortRow i = true)
    (h : AbortedByInvalid a s) (he : exec i s = .next t) : AbortedByInvalid a t := by
  cases i <;> cases hp <;> cases he
  case writeByte v => exact requestCall_abortedByInvalid _ h h
  case readByte => exact requestCall_abortedByInvalid _ h h
  case reset => exact requestCall_abortedByInvalid _ h h
  case writeRam l v => exact requestCall_abortedByInvalid _ h h
  case setSensitivityFactor v => exact requestCall_abortedByInvalid _ h h
  case enableStreaming => exact requestCall_abortedByInvalid _ h h
  case querySample => exact requestCall_abortedByInvalid _ h h
  case nop => exact h
  case reservedCmd code => exact h
  case edge => exact edgeStep_abortedByInvalid h
  case frameStart => unfold frameStartStep; split <;> exact h
  case tickStream => exact tickStreamStep_abortedByInvalid h
  case tickPoll => unfold tickPollStep; split <;> exact h
  case hwReset => exact ⟨h.1, nofun⟩

theorem offerReport_abortedByInvalid {a : SinkAnswer} (p : Sample) {s : State} (h : AbortedByInvalid a s) :
    AbortedByInvalid a (offerReport (setReport p s)) := by
  obtain ⟨rfl, h⟩ := h
  rw [offerReport_setReport]
  refine ⟨rfl, fun ha => ?_⟩
  rcases Bool.or_eq_true_iff.1 ha with ha | hr
  · exact h ha
  · exact beq_iff_eq.1 hr

/-- Of the turns only P3's can abort, on the answer INVALID. -/
theorem seqStep_abortedByInvalid {a : SinkAnswer} {s : State} (h : AbortedByInvalid a s) :
    AbortedByInvalid a (seqStep s) := by
  refine ⟨(seqStep_turnFrame s).rptResult.trans h.1, fun ha => ?_⟩
  by_cases hpc : s.seqPc = .p3
  · rw [seqStep] at ha
    split at ha
    · have hoff := offerReport_abortedByInvalid s.q h
      rw [microStep_p3 hpc] at ha
      split at ha
      · exact hoff.2 ha
      · exact hoff.2 (by simpa using ha)
    · exact h.2 ha
  · obtain ⟨-, -, hab⟩ := (seqStep_turnFrame s).offered hpc
    exact h.2 (hab ▸ ha)

theorem abortedByInvalid_keptByRows (a : SinkAnswer) : KeptByRows (AbortedByInvalid a) where
  port   := fun hp _ h he => portRow_abortedByInvalid hp h he
  turn   := seqStep_abortedByInvalid
  device := fun c d h => ⟨by rw [setDevice_rptResult]; exact h.1, by rw [setDevice_aborted]; exact h.2⟩
  delay  := fun {s} h => by rw [delayDone_eq]; exact h
  record := fun _ h => h
  report := fun p _ h => offerReport_abortedByInvalid p h

theorem step_abortedByInvalid {s t : State} (ha : s.aborted = false) (he : step s = .next t) (hab : t.aborted = true) :
    s.rptResult = .invalid := by
  have hk := abortedByInvalid_keptByRows s.rptResult
  have hs : ∀ l, AbortedByInvalid s.rptResult (afterFetch l s) := fun l => ⟨rfl, fun h => absurd h (by simp [ha])⟩
  have hc : AbortedByInvalid s.rptResult (clearStrobes s) := ⟨rfl, fun h => absurd h (by simp [ha])⟩
  rcases step_cases he with ⟨e, rest, -, he⟩ | ⟨-, -, he⟩ | ⟨-, -, rfl⟩
  · rcases takeInput_cases he with ⟨i, -, hx⟩ | ⟨c, d, -, rfl⟩ | ⟨a, -, rfl⟩ | ⟨-, rfl⟩ | ⟨-, rfl⟩
    · by_cases hi : i = .hwReset
      · subst hi
        cases hx
        cases hab
      · exact (hk.exec_kept hi (hs rest) hx).2 hab
    · exact (hk.device c d (hs rest)).2 hab
    · exact absurd hab (by simp [ha])
    · exact (hk.delay (hs rest)).2 hab
    · exact (hk.turn (hs rest)).2 hab
  · exact (hk.exec_kept (i := .edge) nofun hc he).2 hab
  · exact (hk.turn hc).2 hab

/-- Settles O33: the two places where INVALID aborts, the aborted engine that no move but `hw_reset` changes, the
answer every Abort comes from, and the reset. -/
theorem abortIsFinal : Obligations.AbortIsFinal := by
  refine ⟨fun s ha hr => ⟨fun hv hi hd => ?dispatch, fun hb hpc => ?tail⟩, fun s t ha he hw => ?final,
    fun s t ha he hab => step_abortedByInvalid ha he hab, fun s => ⟨hardwareReset s, rfl, rfl⟩⟩
  case dispatch =>
    have hfresh := tickStreamStep_fresh (tickStreamLegal_of_accepted hv ha hi) hd
    exact ⟨tickStreamStep s, rfl, by rw [hfresh]; exact beq_iff_eq.2 hr, by rw [hfresh]⟩
  case tail =>
    obtain ⟨hinv, -, -⟩ := tickPollTail s hb ha
    exact ⟨seqStep s, rfl, by rw [hinv hpc hr], by rw [hinv hpc hr]; exact hb⟩
  case final =>
    have hkept := (abortedAs_keptByRows (engineOf (clearStrobes s))).step_kept (fun _ _ h => h)
      (fun l => ⟨ha, rfl⟩) he hw
    exact hkept.2

end Sys2Proof.Machine
end

section
/-! SUPPORT and CERTIFICATE for spec/10_state.md R30 and spec/60_exceptions.md R274, R275: the regime, and what each
context may touch. -/

namespace Sys2Proof.Machine

/-! ### What an event may write -/

/-- `EDGE` writes the sampler's registers and the shared sample cache. -/
theorem edgeStep_writes (s : State) : ∃ p a b y c d, edgeStep s =
    { s with edgePending := p, acc := a, bitIdx := b, byteIdx := y, sample := c, dataAvailable := d } := by
  cases he : edgeEnabled s
  case false => exact ⟨_, _, _, _, _, _, edgeStep_of_disabled he⟩
  case true =>
    rw [edgeStep_of_enabled he]
    rcases edgeAction_cases s with ⟨a, b, y, e⟩ | e
    · exact ⟨_, a, b, y, _, _, e⟩
    · exact ⟨_, _, _, _, _, _, e⟩

/-- `FRAME_START` writes the frame state. -/
theorem frameStartStep_writes (s : State) : ∃ a b y, frameStartStep s = { s with acc := a, bitIdx := b, byteIdx := y } := by
  unfold frameStartStep
  split
  · exact ⟨_, _, _, rfl⟩
  · exact ⟨_, _, _, rfl⟩

/-- `TICK_STREAM` writes the flag, the report ports, `disp_state` and `aborted`. -/
theorem tickStreamStep_writes (s : State) : ∃ d r v p a, tickStreamStep s =
    { s with dataAvailable := d, report := r, rptValid := v, dispState := p, aborted := a } := by
  rw [tickStreamStep_eq]
  split
  · exact ⟨_, _, _, _, _, rfl⟩
  · exact ⟨_, _, _, _, _, rfl⟩

/-- Settles O57: the frame of a turn, and what each of the three events writes. -/
theorem contextsKeepApart : Obligations.ContextsKeepApart := by
  refine ⟨fun s => ?turn, ?lines, ?dispatcher, ?sampler⟩
  case turn =>
    have f := seqStep_turnFrame s
    exact ⟨f.sample, f.dataAvailable, f.sampler, f.noEdge, f.offered, f.dispState⟩
  case lines =>
    rintro s t i (rfl | rfl | rfl) he <;> cases he
    · obtain ⟨p, a, b, y, c, d, e⟩ := edgeStep_writes s
      simp [e]
    · obtain ⟨a, b, y, e⟩ := frameStartStep_writes s
      simp [e]
    · obtain ⟨d, r, v, p, a, e⟩ := tickStreamStep_writes s
      simp [e]
  case dispatcher =>
    rintro s t i (rfl | rfl) he <;> cases he
    · obtain ⟨p, a, b, y, c, d, e⟩ := edgeStep_writes s
      simp [e]
    · obtain ⟨a, b, y, e⟩ := frameStartStep_writes s
      simp [e]
  case sampler =>
    intro s t he
    cases he
    obtain ⟨d, r, v, p, a, e⟩ := tickStreamStep_writes s
    simp [e]

/-! ### The regime (R30, R275) -/

theorem requestCall_mode (op : SeqOp) {latched s : State} (h : latched.mode = s.mode) :
    (requestCall op latched s).mode = s.mode := by
  rcases requestCall_cases op latched s with ⟨-, e⟩ | ⟨-, e⟩
  · rw [e, beginSequence_mode, h]
  · rw [e]

/-- No request and no event but `hw_reset` changes the regime. -/
theorem portRow_mode {i : Instr} {s t : State} (hp : isPortRow i = true) (hi : i ≠ .hwReset)
    (he : exec i s = .next t) : t.mode = s.mode := by
  cases i <;> cases hp <;> cases he
  case writeByte v => exact requestCall_mode _ rfl
  case readByte => exact requestCall_mode _ rfl
  case reset => exact requestCall_mode _ rfl
  case writeRam l v => exact requestCall_mode _ rfl
  case setSensitivityFactor v => exact requestCall_mode _ rfl
  case enableStreaming => exact requestCall_mode _ rfl
  case querySample => exact requestCall_mode _ rfl
  case nop => rfl
  case reservedCmd code => rfl
  case edge => obtain ⟨p, a, b, y, c, d, e⟩ := edgeStep_writes s; rw [e]
  case frameStart => obtain ⟨a, b, y, e⟩ := frameStartStep_writes s; rw [e]
  case tickStream => obtain ⟨d, r, v, p, a, e⟩ := tickStreamStep_writes s; rw [e]
  case tickPoll => unfold tickPollStep; split <;> rfl
  case hwReset => exact absurd rfl hi

/-- A turn changes the regime at ES_FINAL only, to STREAMING (R180). -/
theorem seqStep_mode_cases (s : State) : (seqStep s).mode = s.mode ∨
    s.seqPc = .esFinal ∧ s.busy = true ∧ (seqStep s).mode = .streaming := by
  by_cases hpc : s.seqPc = .esFinal
  · cases hen : seqEnabled s
    case false => exact .inl (by rw [seqStep, hen]; rfl)
    case true =>
      have hb : s.busy = true := by
        rw [seqEnabled, Bool.and_eq_true, Bool.and_eq_true] at hen
        exact hen.1.1
      refine .inr ⟨hpc, hb, ?_⟩
      rw [seqStep, if_pos hen, microStep, hpc]
      rfl
  · exact .inl ((seqStep_turnFrame s).mode hpc)

theorem streaming_keptByRows : KeptByRows (fun s => s.mode = .streaming) where
  port   := fun hp hi h he => (portRow_mode hp hi he).trans h
  turn   := fun {s} h => by
    rcases seqStep_mode_cases s with e | ⟨-, -, e⟩
    · exact e.trans h
    · exact e
  device := fun {s} c d h => (setDevice_mode c d s).trans h
  delay  := fun {s} h => by rw [delayDone_eq]; exact h
  record := fun _ h => h
  report := fun p {s} _ h => by rw [offerReport_setReport]; exact h

/-- A single entry changes the regime to STREAMING at ES_FINAL only. -/
theorem takeInput_enters_streaming {e : Input} {s t : State} (hp : isPrimitive s.cfg e = true)
    (he : takeInput e s = .next t) (hs : s.mode = .polling) (ht : t.mode = .streaming) :
    s.seqPc = .esFinal ∧ s.busy = true := by
  have hne : t.mode ≠ s.mode := by rw [hs, ht]; decide
  rcases takeInput_cases he with ⟨i, hr, hx⟩ | ⟨c, d, -, rfl⟩ | ⟨a, -, rfl⟩ | ⟨-, rfl⟩ | ⟨-, rfl⟩
  · by_cases hi : i = .hwReset
    · subst hi
      cases hx
      cases ht
    · exact absurd (portRow_mode (isPortRow_of_isPrimitive hp hr) hi hx) hne
  · exact absurd (setDevice_mode c d s) hne
  · exact absurd rfl hne
  · exact absurd (by rw [delayDone_eq]) hne
  · rcases seqStep_mode_cases s with e | ⟨hpc, hb, -⟩
    · exact absurd e hne
    · exact ⟨hpc, hb⟩

/-- Settles O54: STREAMING is kept by every move but `hw_reset`, and of single moves only ES_FINAL leads there. -/
theorem regimeChanges : Obligations.RegimeChanges := by
  refine fun s t he => ⟨fun hs ht => ?left, fun hs ht hp => ?entered⟩
  case left =>
    by_contra hno
    push Not at hno
    have hk := streaming_keptByRows.step_kept (fun _ _ h => h) (fun _ => hs) he hno
    rw [hk] at ht
    cases ht
  case entered =>
    rcases step_cases he with ⟨e, rest, hin, he⟩ | ⟨-, hen, -⟩ | ⟨-, -, rfl⟩
    · exact takeInput_enters_streaming (s := afterFetch rest s) (hp e rest hin) he hs ht
    · rw [edgeEnabled_polling hs] at hen
      cases hen
    · exact takeInput_enters_streaming (e := .seqTurn) (s := clearStrobes s) rfl rfl hs ht

end Sys2Proof.Machine
end

section
/-! SUPPORT and CERTIFICATE for spec/20_memory.md R60 to R70: who writes the shared sample cache. -/

namespace Sys2Proof.Machine

/-! ### What each entry does to the cache -/

/-- Two states with the same Sample and the same flag. -/
structure SameCache (s t : State) : Prop where
  sample        : t.sample = s.sample
  dataAvailable : t.dataAvailable = s.dataAvailable

theorem SameCache.refl (s : State) : SameCache s s := ⟨rfl, rfl⟩

theorem requestCall_sameCache (op : SeqOp) {latched s : State} (h : SameCache s latched) :
    SameCache s (requestCall op latched s) := by
  rcases requestCall_cases op latched s with ⟨-, e⟩ | ⟨-, e⟩
  · rw [e]; exact ⟨h.sample, h.dataAvailable⟩
  · rw [e]; exact .refl s

/-- What a move of the row `i` (where it is one) does to the cache: nothing, a publish, a consumption, or a reset. -/
inductive CacheMove (i : Option Instr) (s t : State) : Prop where
  | keeps (h : SameCache s t)
  | publishes (hi : i = some .edge) (hs : EdgePublishes s) (hp : t.sample = ⟨s.acc.b0, s.acc.b1, s.acc.b2⟩)
      (hd : t.dataAvailable = true)
  | consumes (hi : i = some .tickStream) (hp : t.sample = s.sample) (hd : t.dataAvailable = false)
  | resets (hi : i = some .hwReset) (hd : t.dataAvailable = false)

theorem insertCell_sample (d : Bool) (s : State) : (insertCell d s).sample = s.sample := by
  unfold insertCell; split <;> rfl

theorem advanceCell_sample {s : State} (h : ¬ (s.byteIdx = 2 ∧ s.bitIdx = 10)) :
    (advanceCell s).sample = s.sample := by
  unfold advanceCell
  split
  · rfl
  · split
    · rfl
    · exact absurd ⟨by omega, by omega⟩ h

theorem edgeStep_cacheMove (s : State) : CacheMove (some .edge) s (edgeStep s) := by
  by_cases hpub : EdgePublishes s
  · obtain ⟨he, hy, hb⟩ := hpub
    have hend : edgeStep s = clearFrame (cachePublish (accSample s.acc) { s with edgePending := false }) := by
      rw [edgeStep_of_enabled he, edgeAction, insertCell_framing _ (by simp [hb])]
      exact advanceCell_frame hb hy
    exact .publishes rfl ⟨he, hy, hb⟩ (by rw [hend]; rfl) (by rw [hend]; rfl)
  · refine .keeps ⟨?_, edgeStep_dataAvailable hpub⟩
    cases he : edgeEnabled s
    case false => rw [edgeStep_of_disabled he]
    case true =>
      have hlast : ¬ (s.byteIdx = 2 ∧ s.bitIdx = 10) := fun hp => hpub ⟨he, hp⟩
      rw [edgeStep_of_enabled he, edgeAction, advanceCell_sample (by simpa using hlast), insertCell_sample]

theorem tickStreamStep_cacheMove (s : State) : CacheMove (some .tickStream) s (tickStreamStep s) := by
  rw [tickStreamStep_eq]
  split
  · exact .consumes rfl rfl rfl
  · exact .keeps (.refl s)

theorem portRow_cacheMove {i : Instr} {s t : State} (hp : isPortRow i = true) (he : exec i s = .next t) :
    CacheMove (some i) s t := by
  cases i <;> cases hp <;> cases he
  case writeByte v => exact .keeps (requestCall_sameCache _ ⟨rfl, rfl⟩)
  case readByte => exact .keeps (requestCall_sameCache _ ⟨rfl, rfl⟩)
  case reset => exact .keeps (requestCall_sameCache _ ⟨rfl, rfl⟩)
  case writeRam l v => exact .keeps (requestCall_sameCache _ ⟨rfl, rfl⟩)
  case setSensitivityFactor v => exact .keeps (requestCall_sameCache _ ⟨rfl, rfl⟩)
  case enableStreaming => exact .keeps (requestCall_sameCache _ ⟨rfl, rfl⟩)
  case querySample => exact .keeps (requestCall_sameCache _ ⟨rfl, rfl⟩)
  case nop => exact .keeps (.refl s)
  case reservedCmd code => exact .keeps (.refl s)
  case edge => exact edgeStep_cacheMove s
  case frameStart => obtain ⟨a, b, y, e⟩ := frameStartStep_writes s; rw [e]; exact .keeps ⟨rfl, rfl⟩
  case tickStream => exact tickStreamStep_cacheMove s
  case tickPoll => unfold tickPollStep; split <;> exact .keeps ⟨rfl, rfl⟩
  case hwReset => exact .resets rfl rfl

theorem takeInput_cacheMove {e : Input} {s t : State} (hp : isPrimitive s.cfg e = true)
    (he : takeInput e s = .next t) : CacheMove (rowOf s.cfg e) s t := by
  rcases takeInput_cases he with ⟨i, hr, hx⟩ | ⟨c, d, -, rfl⟩ | ⟨a, -, rfl⟩ | ⟨-, rfl⟩ | ⟨-, rfl⟩
  · rw [hr]
    exact portRow_cacheMove (isPortRow_of_isPrimitive hp hr) hx
  · exact .keeps ⟨setDevice_sample c d s, setDevice_dataAvailable c d s⟩
  · exact .keeps ⟨rfl, rfl⟩
  · exact .keeps (by rw [delayDone_eq]; exact ⟨rfl, rfl⟩)
  · exact .keeps ⟨(seqStep_turnFrame s).sample, (seqStep_turnFrame s).dataAvailable⟩

/-- Settles O55: the four kinds of `CacheMove` against the three changes. -/
theorem cacheWriters : Obligations.CacheWriters := by
  intro s t e hp he
  cases takeInput_cacheMove hp he with
  | keeps h =>
    exact ⟨fun h0 h1 => by simp [h.dataAvailable, h0] at h1, fun hne => absurd h.sample hne,
      fun h1 h0 => by simp [h.dataAvailable, h1] at h0⟩
  | publishes hi _ hs hd =>
    exact ⟨fun _ _ => ⟨hi, hs⟩, fun _ => .inr ⟨hi, hs, hd⟩, fun _ h0 => by simp [hd] at h0⟩
  | consumes hi hs hd =>
    exact ⟨fun _ h1 => by simp [hd] at h1, fun hne => absurd hs hne, fun _ _ => .inl hi⟩
  | resets hi hd =>
    exact ⟨fun _ h1 => by simp [hd] at h1, fun _ => .inl hi, fun _ _ => .inr hi⟩

/-! ### The handshake over a run (R70) -/

/-- A row that is no tick comes as a word, which every build decodes alike. -/
theorem rowOf_of_any_build {c d : Config} {e : Input} {i : Instr} (hi : i ≠ .tickStream ∧ i ≠ .tickPoll)
    (hr : rowOf d e = some i) : rowOf c e = some i := by
  cases e with
  | word bytes => exact hr
  | tick =>
    obtain ⟨hs, hp⟩ := hi
    cases hv : d.variant
    case polling => exact absurd (Option.some.inj hr).symm (by rw [tickInstr_polling hv]; exact hp)
    case streaming => exact absurd (Option.some.inj hr).symm (by rw [tickInstr_streaming hv]; exact hs)
  | device _ _ | sink _ | delayDone | seqTurn => cases hr

/-- Any build takes the same entries for single ones. -/
theorem isPrimitive_of_any_build {c : Config} (d : Config) {e : Input} (h : isPrimitive c e = true) :
    isPrimitive d e = true := by
  cases e with
  | word bytes => exact h
  | tick | device _ _ | sink _ | delayDone | seqTurn => rfl

/-- The run of `l` from `s` to `u` publishes, and nothing is published after it: some `EDGE` at the end of a frame puts
the three accumulators of its instant into the cache, and `u` still holds them. -/
def LastPublish (c : Config) (l : List Input) (s u : State) : Prop :=
  ∃ (before after : List Input) (e : Input) (v w : State),
    l = before ++ e :: after ∧ runInputs before s = some v ∧ rowOf c e = some .edge ∧
    takeInput e v = .next w ∧ v.byteIdx = 2 ∧ v.bitIdx = 10 ∧ runInputs after w = some u ∧
    w.sample = ⟨v.acc.b0, v.acc.b1, v.acc.b2⟩ ∧ u.sample = w.sample

theorem LastPublish.cons {c : Config} {e : Input} {l : List Input} {s t u : State} (ht : takeInput e s = .next t)
    (h : LastPublish c l t u) : LastPublish c (e :: l) s u := by
  obtain ⟨before, after, e', v, w, rfl, hv, hrest⟩ := h
  exact ⟨e :: before, after, e', v, w, rfl, (runInputs_cons_of_next ht before).trans hv, hrest⟩

/-- A run without `hw_reset` has a last publish, or it leaves the Sample and sets no flag. -/
theorem runInputs_lastPublish {c : Config} (l : List Input) : ∀ {s u : State},
    (∀ e ∈ l, isPrimitive c e = true ∧ rowOf c e ≠ some .hwReset) → runInputs l s = some u →
    LastPublish c l s u ∨ u.sample = s.sample ∧ (u.dataAvailable = true → s.dataAvailable = true) := by
  induction l with
  | nil =>
    intro s u _ hr
    cases hr
    exact .inr ⟨rfl, fun h => h⟩
  | cons e l ih =>
    intro s u hp hr
    obtain ⟨t, ht, hrest⟩ := runInputs_cons_cases hr
    obtain ⟨⟨hprim, hnr⟩, hl⟩ := List.forall_mem_cons.mp hp
    rcases ih hl hrest with hpub | ⟨hs, hd⟩
    · exact .inl (hpub.cons ht)
    · cases takeInput_cacheMove (isPrimitive_of_any_build s.cfg hprim) ht with
      | keeps h => exact .inr ⟨hs.trans h.sample, fun hu => h.dataAvailable ▸ hd hu⟩
      | publishes hi hpub hsmp _ =>
        exact .inl ⟨[], l, e, s, t, rfl, rfl, rowOf_of_any_build (by decide) hi, ht, hpub.2.1, hpub.2.2, hrest, hsmp, hs⟩
      | consumes _ hsmp hclear => exact .inr ⟨hs.trans hsmp, fun hu => by simp [hd hu] at hclear⟩
      | resets hi _ => exact absurd (rowOf_of_any_build (by decide) hi) hnr

/-- Settles O56: a run that sets a clear flag cannot be one without a publish. -/
theorem cacheHandshake : Obligations.CacheHandshake := by
  intro s u l hp hs hr hu
  rcases runInputs_lastPublish l hp hr with hpub | ⟨-, hd⟩
  · exact hpub
  · exact absurd (hd hu) (by simp [hs])

end Sys2Proof.Machine
end

section
/-! SUPPORT and CERTIFICATE for spec/30_encoding.md R115: frames that no `read_byte` waits for. -/

namespace Sys2Proof.Machine

/-! ### Where the sequencer stands in a `write_byte` or a `reset()` -/

/-- A label of `write_byte` leads to the next one, and the last one back to the caller. -/
theorem microStep_write {s : State} (h : labelPart s.seqPc = .write) :
    labelPart (microStep s).seqPc = .write ∧ (microStep s).seqOp = s.seqOp ∨
      microStep s = returnToCaller (driveLow .clock s) := by
  cases hpc : s.seqPc <;> simp only [hpc, labelPart] at h <;> simp only [microStep, hpc]
  case wr15 => exact .inr trivial
  case wr2 | wr4 | wr6 | wr12 => unfold delayStep; split <;> exact .inl (by simp [labelPart, hpc])
  case wr9d => unfold nextBit; split <;> exact .inl ⟨rfl, rfl⟩
  all_goals first
    | contradiction
    | exact .inl (by simp [labelPart, release, driveLow, setData])

/-- A `write_byte` or a `reset()` is in progress, alone; or no operation is. -/
def NoReadBegun (s : State) : Prop :=
  s.seqOp = .writeByte ∧ labelPart s.seqPc = .write ∨ s.seqOp = .reset ∧ labelPart s.seqPc = .pulse ∨ s.seqPc = .idle

theorem returnToCaller_noReadBegun {s : State} (ho : s.seqOp = .writeByte) : NoReadBegun (returnToCaller s) := by
  by_cases hi : s.cmdIdx = lastIdx s.seqOp
  · rw [returnToCaller_last hi (by simp [ho])]
    exact .inr (.inr rfl)
  · rw [returnToCaller_more hi]
    exact .inl ⟨ho, by simp [ho, entryLabel, labelPart]⟩

theorem microStep_reset_noReadBegun {s : State} (ho : s.seqOp = .reset) (h : labelPart s.seqPc = .pulse) :
    NoReadBegun (microStep s) := by
  cases hpc : s.seqPc <;> simp only [hpc, labelPart] at h <;> simp only [microStep, hpc]
  case rs0 => exact .inr (.inl ⟨ho, rfl⟩)
  case rs1 => unfold delayStep; split <;> exact .inr (.inl ⟨ho, by simp [labelPart, hpc]⟩)
  case rs2 => exact .inr (.inr rfl)
  all_goals contradiction

theorem seqStep_noReadBegun {s : State} (h : NoReadBegun s) : NoReadBegun (seqStep s) := by
  unfold seqStep
  split
  case isFalse => exact h
  case isTrue =>
    rcases h with ⟨ho, hw⟩ | ⟨ho, hp⟩ | hidle
    · rcases microStep_write hw with ⟨hw', ho'⟩ | e
      · exact .inl ⟨ho'.trans ho, hw'⟩
      · rw [e]
        exact returnToCaller_noReadBegun (by rw [driveLow, setHost_seqOp, ho])
    · exact microStep_reset_noReadBegun ho hp
    · exact .inr (.inr (by rw [microStep, hidle]; exact hidle))

theorem NoReadBegun.ne_read {s : State} (h : NoReadBegun s) : labelPart s.seqPc ≠ .read ∧ s.seqPc ≠ .esFinal := by
  rcases h with ⟨-, hp⟩ | ⟨-, hp⟩ | hp
  · exact ⟨by simp [hp], fun e => by simp [e, labelPart] at hp⟩
  · exact ⟨by simp [hp], fun e => by simp [e, labelPart] at hp⟩
  · simp [hp, labelPart]

/-! ### What no frame reaches there -/

/-- What a decoded frame would have changed: the received byte and triple, the cache and the sampler. -/
structure Undecoded (s t : State) : Prop where
  rx            : t.rx = s.rx
  q             : t.q = s.q
  sample        : t.sample = s.sample
  dataAvailable : t.dataAvailable = s.dataAvailable
  noEdge        : t.edgePending = true → s.edgePending = true

/-- The frame state of the sampler as it was. -/
structure SameFrameState (s t : State) : Prop where
  byteIdx : t.byteIdx = s.byteIdx
  bitIdx  : t.bitIdx = s.bitIdx
  acc     : t.acc = s.acc

/-- A turn in POLLING outside the program of `read_byte` decodes nothing. -/
theorem seqStep_undecoded {s : State} (hm : s.mode = .polling) (hp : labelPart s.seqPc ≠ .read) :
    Undecoded s (seqStep s) := by
  have f := seqStep_turnFrame s
  have hne : ∀ pc, labelPart pc = .read → s.seqPc ≠ pc := fun pc hpc e => hp (by rw [e, hpc])
  exact ⟨f.rx (hne _ rfl) (hne _ rfl), f.q (hne _ rfl), f.sample, f.dataAvailable, f.noEdge hm⟩

theorem seqStep_sameFrameState {s : State} (hp : s.seqPc ≠ .esFinal) : SameFrameState s (seqStep s) := by
  obtain ⟨hy, hb, ha⟩ := (seqStep_turnFrame s).sampler hp
  exact ⟨hy, hb, ha⟩

/-- The engine is in POLLING with no `read_byte` begun since `s`, and has decoded nothing. -/
structure Deaf (s t : State) : Prop where
  polling   : t.mode = .polling
  noRead    : NoReadBegun t
  undecoded : Undecoded s t
  sampler   : SameFrameState s t

theorem deaf_keptByTurns (s : State) : KeptByTurns (Deaf s) where
  edge   := fun h => by rwa [edgeStep_of_disabled (edgeEnabled_polling h.polling)]
  turn   := fun {t} h => by
    obtain ⟨hread, hfinal⟩ := h.noRead.ne_read
    obtain ⟨g1, g2, g3, g4, g5⟩ := seqStep_undecoded h.polling hread
    obtain ⟨k1, k2, k3⟩ := seqStep_sameFrameState hfinal
    obtain ⟨hm, hn, ⟨f1, f2, f3, f4, f5⟩, ⟨l1, l2, l3⟩⟩ := h
    exact ⟨((seqStep_turnFrame t).mode hfinal).trans hm, seqStep_noReadBegun hn,
      ⟨g1.trans f1, g2.trans f2, g3.trans f3, g4.trans f4, fun he => f5 (g5 he)⟩, ⟨k1.trans l1, k2.trans l2, k3.trans l3⟩⟩
  device := fun c d h => by
    obtain ⟨hm, hn, ⟨f1, f2, f3, f4, f5⟩, ⟨l1, l2, l3⟩⟩ := h
    rw [setDevice_polling c d _ hm]
    exact ⟨hm, hn, ⟨f1, f2, f3, f4, f5⟩, ⟨l1, l2, l3⟩⟩
  delay  := fun {t} h => by
    obtain ⟨hm, hn, ⟨f1, f2, f3, f4, f5⟩, ⟨l1, l2, l3⟩⟩ := h
    rw [delayDone_eq]
    exact ⟨hm, hn, ⟨f1, f2, f3, f4, f5⟩, ⟨l1, l2, l3⟩⟩

/-- Settles O59: the device's entry in POLLING, the frame of a turn outside `read_byte`, and the three rows, whose every
move keeps the engine deaf. -/
theorem framesOutsideReadUndecoded : Obligations.FramesOutsideReadUndecoded := by
  refine ⟨fun s c d hm => congrArg _ (setDevice_polling c d s hm), fun s hm hp => ?turn, fun s i hm hpos hi => ?rows⟩
  case turn =>
    obtain ⟨f1, f2, f3, f4, f5⟩ := seqStep_undecoded hm hp
    exact ⟨f1, f2, f3, f4, f5, (seqStep_turnFrame s).sampler⟩
  case rows =>
    have hdeaf : Deaf s s := ⟨hm, by unfold NoReadBegun; tauto, ⟨rfl, rfl, rfl, rfl, fun h => h⟩, ⟨rfl, rfl, rfl⟩⟩
    have hk := deaf_keptByTurns s
    have hrow : ∃ t, exec i s = .next t ∧ Deaf s t := by
      rcases hi with ⟨f, rfl⟩ | ⟨v, rfl⟩ | ⟨f, g, h, rfl⟩
      · exact ⟨_, rfl, hk.sendFrame_kept f hdeaf⟩
      · exact ⟨_, rfl, hk.sendFrame_kept _ hdeaf⟩
      · exact ⟨_, rfl, hk.sendFrame_kept h (hk.sendFrame_kept g (hk.sendFrame_kept f hdeaf))⟩
    obtain ⟨t, he, ht, -, ⟨f1, f2, f3, f4, f5⟩, ⟨l1, l2, l3⟩⟩ := hrow
    exact ⟨t, he, ht, f1, f2, f3, f4, f5, l1, l2, l3⟩

end Sys2Proof.Machine
end

section
/-! SUPPORT for spec/30_encoding.md R92 to R104 and spec/41_device_controller.md R170 to R183: the two places where an
operation waits for the device, and how one byte leads from one to the next. -/

namespace Sys2Proof.Machine

/-! ### The two places where an operation waits for the device -/

/-- Call `idx` of `op` has requested to send its byte and waits for the device to take the clock (WR8). -/
def awaitingClock (op : SeqOp) (idx : Fin 8) (s : State) : State :=
  { s with
    devClock := .rel, devData := .rel, hostClock := .rel, hostData := .low, busy := true, seqOp := op, cmdIdx := idx,
    tx := callByte { s with seqOp := op, cmdIdx := idx }, par := true, bitCnt := 0,
    dlyReq := false, dlyLen := s.cfg.tPreRelease, dlyDone := false, seqPc := .wr8 }

/-- Call `idx` of `op` waits for the START cell of the byte it reads (RD3). -/
def awaitingStart (op : SeqOp) (idx : Fin 8) (s : State) : State :=
  { s with
    devClock := .rel, devData := .rel, hostClock := .rel, hostData := .rel, busy := true, seqOp := op, cmdIdx := idx,
    rx := 0, bitCnt := 0, dlyReq := false, dlyLen := s.cfg.tSettle, dlyDone := false, seqPc := .rd3 }

/-- The byte that call `idx` of `op` transmits. -/
abbrev opByte (op : SeqOp) (idx : Fin 8) (s : State) : Byte := callByte { s with seqOp := op, cmdIdx := idx }

section
variable (op : SeqOp) (idx : Fin 8) (s : State)

@[simp] theorem awaitingClock_busy : (awaitingClock op idx s).busy = true := rfl
@[simp] theorem awaitingClock_aborted : (awaitingClock op idx s).aborted = s.aborted := rfl
@[simp] theorem awaitingClock_seqOp : (awaitingClock op idx s).seqOp = op := rfl
@[simp] theorem awaitingClock_cmdIdx : (awaitingClock op idx s).cmdIdx = idx := rfl
@[simp] theorem awaitingClock_tx : (awaitingClock op idx s).tx = opByte op idx s := rfl
@[simp] theorem awaitingClock_hostClock : (awaitingClock op idx s).hostClock = .rel := rfl
@[simp] theorem awaitingClock_hostData : (awaitingClock op idx s).hostData = .low := rfl
@[simp] theorem awaitingStart_seqOp : (awaitingStart op idx s).seqOp = op := rfl
@[simp] theorem awaitingStart_cmdIdx : (awaitingStart op idx s).cmdIdx = idx := rfl

end

section
variable {s : State} (h : Ready s)
include h

theorem awaitingClock_running (op : SeqOp) (idx : Fin 8) : Running (awaitingClock op idx s) :=
  ⟨rfl, h.alive, h.polling, rfl⟩

theorem awaitingStart_running (op : SeqOp) (idx : Fin 8) : Running (awaitingStart op idx s) :=
  ⟨rfl, h.alive, h.polling, rfl⟩

theorem beginSequence_running (op : SeqOp) : Running (beginSequence op s) :=
  ⟨rfl, h.alive, h.polling, h.noDelay⟩

/-- What a byte operation latches and what the device latches leave a free sequencer ready. -/
theorem Ready.of {t : State} (h1 : t.busy = s.busy := by rfl) (h2 : t.aborted = s.aborted := by rfl)
    (h3 : t.mode = s.mode := by rfl) (h4 : t.dlyReq = s.dlyReq := by rfl) : Ready t :=
  ⟨h1.trans h.free, h2.trans h.alive, h3.trans h.polling, h4.trans h.noDelay⟩

/-- A call that begins with a `write_byte` comes to its request with the device at rest. -/
theorem deviceRests_beginSequence {op : SeqOp} (he : entryLabel op 0 = .wr0) :
    deviceRests (beginSequence op s) = awaitingClock op 0 s := by
  rw [deviceRests_wr0 (beginSequence_running h op) he]
  simp only [awaitingClock, beginSequence, h.noDelay]
  rfl

theorem deviceRests_awaitingClock (op : SeqOp) (idx : Fin 8) :
    deviceRests (awaitingClock op idx s) = awaitingClock op idx s :=
  deviceRests_wr8 (awaitingClock_running h op idx) rfl rfl

theorem answerRequest_beginSequence {op : SeqOp} (he : entryLabel op 0 = .wr0) :
    answerRequest (beginSequence op s) = answerRequest (awaitingClock op 0 s) := by
  have hrest := deviceRests_beginSequence h he
  rw [answerRequest_rests, hrest]
  rw [hrest, deviceRests_awaitingClock h]

theorem exchange_beginSequence {op : SeqOp} (he : entryLabel op 0 = .wr0) (a : Byte) :
    exchange a (beginSequence op s) = exchange a (awaitingClock op 0 s) := by
  rw [exchange, answerRequest_beginSequence h he, exchange]

/-- A `read_byte` alone comes to its wait with the device at rest. -/
theorem sendFrame_beginSequence_readByte (f : D2hFrame) :
    sendFrame f (beginSequence .readByte s) = sendFrame f (awaitingStart .readByte 0 s) := by
  rw [sendFrame_rd0 f (beginSequence_running h _) rfl]
  simp only [awaitingStart, beginSequence, h.noDelay]

/-! ### The frame of the operation in progress (log 22) -/

theorem requestsByte_beginSequence {op : SeqOp} (he : entryLabel op 0 = .wr0) :
    requestsByte (opByte op 0 s) (beginSequence op s) = true := by
  simp [requestsByte, deviceRests_beginSequence h he, requestToSend, h.alive]

theorem requestsByte_awaitingClock (op : SeqOp) (idx : Fin 8) :
    requestsByte (opByte op idx s) (awaitingClock op idx s) = true := by
  simp [requestsByte, deviceRests_awaitingClock h, requestToSend, h.alive]

/-! ### One byte alone -/

/-- The frame of a `write_byte` alone, whole. -/
theorem answerRequest_writeByte :
    answerRequest (awaitingClock .writeByte 0 s) = wroteByte s.tx s :=
  answerRequest_then_complete (awaitingClock_running h _ _) rfl rfl rfl rfl rfl rfl (by simp)

/-- The frame of a `read_byte` alone, whole. -/
theorem sendFrame_readByte (f : D2hFrame) :
    sendFrame f (awaitingStart .readByte 0 s) = tookByte f.byte s :=
  sendFrame_then_complete f (awaitingStart_running h _ _) rfl rfl rfl rfl rfl rfl (by simp)

end

/-! ### `write_ram` and `set_sensitivity_factor` (R174, R177) -/

/-- An acknowledgment was read and discarded, after the device latched the frame of `b`. -/
def afterAck (ack b : Byte) (s : State) : State :=
  { s with rx := ack, devFrame := latchedCells b }

/-- The state that `write_ram` and `set_sensitivity_factor` leave with the operands latched in `s`. -/
def wroteRam (ack : Byte) (s : State) : State :=
  { s with
    hostClock := .low, hostData := .rel, busy := false, seqOp := .idle, seqPc := .idle, bitCnt := 7, cmdIdx := 7,
    tx := s.argVal, par := oddParity s.argVal, rx := ack, rspValid := true,
    dlyReq := false, dlyLen := s.cfg.tGuard, dlyDone := false,
    devClock := .rel, devData := .rel, devFrame := latchedCells s.argVal }

section
variable {s : State} (h : Ready s) {op : SeqOp} (ho : op = .writeRam ∨ op = .setSensitivityFactor)

section
include ho

theorem entryLabel_ram : entryLabel op 0 = .wr0 := by rcases ho with rfl | rfl <;> rfl

theorem opByte_ram0 : opByte op 0 s = s.cfg.cmdRamSelect := by rcases ho with rfl | rfl <;> rfl

theorem opByte_ram2 : opByte op 2 s = s.cfg.cmdRamSet := by rcases ho with rfl | rfl <;> rfl

theorem opByte_ram4 : opByte op 4 s = s.argLoc := by rcases ho with rfl | rfl <;> rfl

theorem opByte_ram6 : opByte op 6 s = s.argVal := by rcases ho with rfl | rfl <;> rfl

end

include h ho

/-- An acknowledgment before the last leads to the next request. -/
theorem exchange_ramByte {idx : Fin 8} (hi : idx = 0 ∨ idx = 2 ∨ idx = 4) (a : Byte) :
    exchange a (awaitingClock op idx s) = awaitingClock op (idx + 1 + 1) (afterAck a (opByte op idx s) s) := by
  have hread : entryLabel op (idx + 1) = .rd0 ∧ idx ≠ lastIdx op := by
    rcases ho with rfl | rfl <;> rcases hi with rfl | rfl | rfl <;> decide
  have hwrite : entryLabel op (idx + 1 + 1) = .wr0 ∧ idx + 1 ≠ lastIdx op := by
    rcases ho with rfl | rfl <;> rcases hi with rfl | rfl | rfl <;> decide
  have hop : op ≠ .querySample ∧ op ≠ .tickPoll := by rcases ho with rfl | rfl <;> decide
  rw [exchange_then_write a (awaitingClock_running h op idx) rfl rfl rfl rfl rfl hop hread.2 hread.1 hwrite.2 hwrite.1]
  rcases ho with rfl | rfl <;> rfl

theorem exchange_ram0 (a : Byte) :
    exchange a (beginSequence op s) = awaitingClock op 2 (afterAck a s.cfg.cmdRamSelect s) := by
  rw [exchange_beginSequence h (entryLabel_ram ho), exchange_ramByte h ho (.inl rfl), opByte_ram0 ho]
  rfl

theorem exchange_ram2 (a : Byte) :
    exchange a (awaitingClock op 2 s) = awaitingClock op 4 (afterAck a s.cfg.cmdRamSet s) := by
  rw [exchange_ramByte h ho (.inr (.inl rfl)), opByte_ram2 ho]
  rfl

theorem exchange_ram4 (a : Byte) :
    exchange a (awaitingClock op 4 s) = awaitingClock op 6 (afterAck a s.argLoc s) := by
  rw [exchange_ramByte h ho (.inr (.inr rfl)), opByte_ram4 ho]
  rfl

theorem exchange_ram6 (a : Byte) : exchange a (awaitingClock op 6 s) = wroteRam a s := by
  rw [exchange_then_complete a (awaitingClock_running h op 6) rfl rfl rfl rfl rfl ho rfl]
  rcases ho with rfl | rfl <;> rfl

/-- The four bytes and their acknowledgments, whole. -/
theorem exchange_ram (a0 a1 a2 a3 : Byte) :
    exchange a3 (exchange a2 (exchange a1 (exchange a0 (beginSequence op s)))) = wroteRam a3 s := by
  rw [exchange_ram0 h ho, exchange_ram2 (s := afterAck a0 _ s) h.of ho,
    exchange_ram4 (s := afterAck a1 _ (afterAck a0 _ s)) h.of ho,
    exchange_ram6 (s := afterAck a2 _ (afterAck a1 _ (afterAck a0 _ s))) h.of ho]
  rfl

end

/-! ### `enable_streaming` (R178, R180) -/

/-- The state that `enable_streaming` leaves. -/
def enabledStreaming (ack : Byte) (s : State) : State :=
  { s with
    hostClock := .rel, hostData := .rel, mode := .streaming, edgePending := false, byteIdx := 0, bitIdx := 0,
    acc := ⟨0, 0, 0⟩, busy := false, seqOp := .idle, seqPc := .idle, bitCnt := 7, cmdIdx := 4,
    tx := s.cfg.cmdEnableReporting, par := oddParity s.cfg.cmdEnableReporting, rx := ack, rspValid := true,
    dlyReq := false, dlyLen := s.cfg.tGuard, dlyDone := false,
    devClock := .rel, devData := .rel, devFrame := latchedCells s.cfg.cmdEnableReporting }

section
variable {s : State} (h : Ready s)
include h

theorem exchange_enable0 (a : Byte) : exchange a (beginSequence .enableStreaming s) =
    awaitingClock .enableStreaming 2 (afterAck a s.cfg.cmdSetStreamMode s) := by
  rw [exchange_beginSequence h rfl]
  exact exchange_then_write a (awaitingClock_running h _ 0) rfl rfl rfl rfl rfl (by simp) (by simp [lastIdx]) rfl
    (by simp [lastIdx]) (by simp [entryLabel])

/-- After the second acknowledgment comes ES_FINAL. -/
theorem exchange_enable2 (a : Byte) : exchange a (awaitingClock .enableStreaming 2 s) = enabledStreaming a s :=
  exchange_then_final a (awaitingClock_running h _ 2) rfl rfl rfl rfl rfl rfl rfl

/-- The two bytes and their acknowledgments, whole. -/
theorem exchange_enable (a0 a1 : Byte) :
    exchange a1 (exchange a0 (beginSequence .enableStreaming s)) = enabledStreaming a1 s := by
  rw [exchange_enable0 h, exchange_enable2 (s := afterAck a0 _ s) h.of]
  rfl

end

/-! ### `query_sample`, called or in a `TICK_POLL` (R183, R240) -/

/-- The read-data byte was sent; its acknowledgment is discarded. -/
def afterQueryByte (s : State) : State :=
  { s with tx := s.cfg.cmdReadData, par := oddParity s.cfg.cmdReadData, devFrame := latchedCells s.cfg.cmdReadData }

/-- The state that the four bytes of a query leave but for the operation's own end. -/
def queried (x : Byte) (q : Sample) (s : State) : State :=
  { s with
    hostClock := .low, hostData := .rel, busy := false, seqOp := .idle, seqPc := .idle, bitCnt := 7, cmdIdx := 4,
    tx := s.cfg.cmdReadData, par := oddParity s.cfg.cmdReadData, rx := x, q := q,
    dlyReq := false, dlyLen := s.cfg.tGuard, dlyDone := false,
    devClock := .rel, devData := .rel, devFrame := latchedCells s.cfg.cmdReadData }

section
variable {s : State} (h : Ready s) {op : SeqOp} (ho : op = .querySample ∨ op = .tickPoll)

theorem opByte_query (ho : op = .querySample ∨ op = .tickPoll) : opByte op 0 s = s.cfg.cmdReadData := by
  rcases ho with rfl | rfl <;> rfl

section
include h ho

theorem exchange_query (a : Byte) :
    exchange a (beginSequence op s) = awaitingStart op 2 (afterQueryByte s) := by
  rw [exchange_beginSequence h (by rcases ho with rfl | rfl <;> rfl), afterQueryByte, ← opByte_query (s := s) ho]
  exact exchange_then_read a (awaitingClock_running h op 0) rfl rfl rfl rfl rfl ho rfl

/-- The second byte read is the Sample's `state`. -/
theorem sendFrame_queryState (f : D2hFrame) :
    sendFrame f (awaitingStart op 2 s) = awaitingStart op 3 { s with q := { s.q with state := f.byte } } := by
  rw [sendFrame_then_read f (awaitingStart_running h op 2) rfl rfl rfl rfl rfl]
  · rcases ho with rfl | rfl <;> rfl
  · rcases ho with rfl | rfl <;> simp [lastIdx]
  · rcases ho with rfl | rfl <;> rfl

/-- The third is its `x`. -/
theorem sendFrame_queryX (f : D2hFrame) :
    sendFrame f (awaitingStart op 3 s) = awaitingStart op 4 { s with q := { s.q with x := f.byte } } := by
  rw [sendFrame_then_read f (awaitingStart_running h op 3) rfl rfl rfl rfl rfl]
  · rcases ho with rfl | rfl <;> rfl
  · rcases ho with rfl | rfl <;> simp [lastIdx]
  · rcases ho with rfl | rfl <;> rfl

/-- The bytes `state` and `x`, after the acknowledgment. -/
theorem sendFrame_queryStateX (f g : D2hFrame) : sendFrame g (sendFrame f (awaitingStart op 2 s)) =
    awaitingStart op 4 { s with q := ⟨f.byte, g.byte, s.q.y⟩ } := by
  rw [sendFrame_queryState h ho, sendFrame_queryX (s := { s with q := { s.q with state := f.byte } }) h.of ho]

end

include h

/-- The fourth is its `y`, and the end of a called `query_sample`. -/
theorem sendFrame_queryY (f : D2hFrame) : sendFrame f (awaitingStart .querySample 4 s) =
    { awaitingStart .querySample 4 s with
      hostClock := .low, rx := f.byte, bitCnt := 7, q := { s.q with y := f.byte }, busy := false, seqOp := .idle,
      seqPc := .idle, rspValid := true, dlyLen := s.cfg.tGuard } :=
  sendFrame_then_complete f (awaitingStart_running h _ 4) rfl rfl rfl rfl rfl rfl (by simp)

/-- In a `TICK_POLL` the report of the triple is offered after it, here to a sink that does not answer INVALID. -/
theorem sendFrame_tickY (f : D2hFrame) (hr : s.rptResult ≠ .invalid) : sendFrame f (awaitingStart .tickPoll 4 s) =
    { awaitingStart .tickPoll 4 s with
      hostClock := .low, hostData := .rel, rx := f.byte, bitCnt := 7, q := { s.q with y := f.byte },
      dlyLen := s.cfg.tGuard, report := formatReport s.cfg { s.q with y := f.byte }, rptValid := true,
      busy := false, dispState := .idle, seqOp := .idle, seqPc := .idle } :=
  (sendFrame_then_report f (awaitingStart_running h _ 4) rfl rfl rfl rfl rfl rfl rfl).trans (if_neg hr)

/-- A called `query_sample`, whole. -/
theorem frames_querySample (a : Byte) (f g k : D2hFrame) :
    sendFrame k (sendFrame g (sendFrame f (exchange a (beginSequence .querySample s)))) =
      { queried k.byte ⟨f.byte, g.byte, k.byte⟩ s with rspValid := true } := by
  rw [exchange_query h (.inl rfl), sendFrame_queryStateX (s := afterQueryByte s) h.of (.inl rfl),
    sendFrame_queryY (s := { afterQueryByte s with q := ⟨f.byte, g.byte, _⟩ }) h.of]
  rfl

/-- The query of a `TICK_POLL`, and its report, whole. -/
theorem frames_tickPoll (a : Byte) (f g k : D2hFrame) (hr : s.rptResult ≠ .invalid) :
    sendFrame k (sendFrame g (sendFrame f (exchange a (beginSequence .tickPoll s)))) =
      { queried k.byte ⟨f.byte, g.byte, k.byte⟩ s with
        report := formatReport s.cfg ⟨f.byte, g.byte, k.byte⟩, rptValid := true, dispState := .idle } := by
  rw [exchange_query h (.inr rfl), sendFrame_queryStateX (s := afterQueryByte s) h.of (.inr rfl),
    sendFrame_tickY (s := { afterQueryByte s with q := ⟨f.byte, g.byte, _⟩ }) h.of _ hr]
  rfl

end

end Sys2Proof.Machine
end

section
/-! CERTIFICATE for spec/40_protocol_engine.md R135 to R153 and spec/30_encoding.md R92 to R101: one byte on the wire. -/

namespace Sys2Proof.Machine

/-! ### Several rows, one after another -/

theorem runInstrs_cons_of_next {i : Instr} {s t : State} (h : exec i s = .next t) (l : List Instr) :
    runInstrs (i :: l) s = runInstrs l t := by
  simp only [runInstrs, h]

/-! ### A byte to the device -/

theorem callWriteByte_of_ready {s : State} (h : Ready s) (v : Byte) :
    callWriteByte v s = beginSequence .writeByte { s with tx := v } :=
  requestCall_of_legal (callLegal_of_free h.free h.alive h.polling (by decide)) _

/-- The frame of a `write_byte(v)` that was just accepted, whole. -/
theorem answerRequest_callWriteByte {s : State} (h : Ready s) (v : Byte) :
    answerRequest (callWriteByte v s) = wroteByte v s := by
  rw [callWriteByte_of_ready h, answerRequest_beginSequence (s := { s with tx := v }) h.of rfl,
    answerRequest_writeByte (s := { s with tx := v }) h.of]
  rfl

/-- An H2D row of the byte that the operation in progress requests is the device's side of its frame (log 22). -/
theorem transferByte_of_requested {v : Byte} {s : State} (hb : s.busy = true) (hr : requestsByte v s = true) :
    transferByte v s = answerRequest s := by
  simp [transferByte, hb, hr]

/-- From a ready state an H2D row starts its own `write_byte`. -/
theorem transferByte_of_ready {s : State} (h : Ready s) (v : Byte) : transferByte v s = wroteByte v s := by
  have hl : callLegal .writeByte s = true := callLegal_of_free h.free h.alive h.polling (by decide)
  rw [transferByte, if_pos (by rw [hl, Bool.or_true]), if_neg (by simp [h.free]), answerRequest_callWriteByte h]

theorem transferByte_callWriteByte {s : State} (h : Ready s) (v : Byte) :
    transferByte v (callWriteByte v s) = wroteByte v s := by
  have hr : requestsByte v (callWriteByte v s) = true := by
    rw [callWriteByte_of_ready h]
    exact requestsByte_beginSequence (s := { s with tx := v }) h.of rfl
  have hb : (callWriteByte v s).busy = true := by rw [callWriteByte_of_ready h]; rfl
  rw [transferByte_of_requested hb hr, answerRequest_callWriteByte h]

/-- Settles O34: the row alone, the row after the call, and the ten latched cells. -/
theorem h2dTransfers : Obligations.H2dTransfers := by
  refine fun s v h => ⟨congrArg _ (transferByte_of_ready h v),
    ⟨callWriteByte v s, rfl, congrArg _ (transferByte_callWriteByte h v)⟩, ?_⟩
  exact (latchedCells_eq v).trans (List.append_assoc ..)

/-- Settles O35: each row is the H2D row of its parameter. -/
theorem commandBytesTransferred : Obligations.CommandBytesTransferred := fun s h =>
  ⟨congrArg _ (transferByte_of_ready h s.cfg.cmdReadData), congrArg _ (transferByte_of_ready h s.cfg.cmdRamSelect),
    congrArg _ (transferByte_of_ready h s.cfg.cmdRamSet), congrArg _ (transferByte_of_ready h s.cfg.cmdSetStreamMode),
    congrArg _ (transferByte_of_ready h s.cfg.cmdEnableReporting)⟩

/-! ### The parity cell (R93) -/

/-- The ninth latched cell is the parity of the other eight. -/
theorem latchedCells_parity (v : Byte) : (latchedCells v)[8]? = some (oddParity v) := by
  rw [latchedCells_eq]
  rfl

/-- Data and parity hold an odd number of ones. -/
theorem latchedCells_odd (v : Byte) : ((latchedCells v).take 9).count true % 2 = 1 := by
  revert v
  decide

/-- Settles O6: the latched cells of `wroteByte`, and a count of all byte values. -/
theorem parityBitTransmitted : Obligations.ParityBitTransmitted := by
  refine ⟨fun s v h => ?cells, by decide +kernel⟩
  case cells =>
    exact ⟨callWriteByte v s, wroteByte v s, rfl, congrArg _ (transferByte_callWriteByte h v), latchedCells_parity v,
      latchedCells_odd v⟩

/-! ### A byte from the device -/

/-- A frame sent to a `read_byte` that was just accepted, whole. -/
theorem sendFrame_callReadByte {s : State} (h : Ready s) (f : D2hFrame) :
    sendFrame f (callPlain .readByte s) = tookByte f.byte s := by
  rw [callPlain_of_ready h (by decide), sendFrame_beginSequence_readByte h, sendFrame_readByte h]

/-- Settles O36: the frame as `read_byte` takes it, framing cells unread. -/
theorem d2hRead : Obligations.D2hRead := fun s f h =>
  ⟨callPlain .readByte s, rfl, congrArg _ (sendFrame_callReadByte h f)⟩

/-- The first byte of a cell string. -/
theorem cellByte_zero {n : Nat} (c : BitVec n) : cellByte c 0 = c.setWidth 8 := by
  apply BitVec.eq_of_getLsbD_eq
  intro i hi
  simp [cellByte, hi]

/-- The second. -/
theorem cellByte_one {n : Nat} (c : BitVec n) : cellByte c 1 = (c >>> 8).setWidth 8 := by
  apply BitVec.eq_of_getLsbD_eq
  intro i hi
  simp [cellByte, hi]

/-- Any eleven cells are a D2H word. -/
theorem decode_d2hCells (c : BitVec 11) :
    decode [0x21, c.setWidth 8, (c >>> 8).setWidth 8] = .ok (.d2h (d2hOfCells c), []) := by
  have hdec := decode_encode (i := .d2h (d2hOfCells c)) rfl []
  rwa [encode, d2hCells_d2hOfCells, cellByte_zero, cellByte_one] at hdec

/-- Settles O5: the frame of the cells, its byte's bits, and `read_byte`, which takes any frame. -/
theorem allD2hCellsAccepted : Obligations.AllD2hCellsAccepted := by
  refine fun c => ⟨d2hOfCells c, decode_d2hCells c, fun k hk => ?bits, fun s h => ?read⟩
  case bits => simp [d2hOfCells, hk, Nat.add_comm]
  case read =>
    have hread : exec (.d2h (d2hOfCells c)) (callPlain .readByte s) = .next (tookByte (d2hOfCells c).byte s) :=
      congrArg _ (sendFrame_callReadByte h _)
    exact ⟨_, (runInstrs_cons_of_next rfl _).trans (runInstrs_cons_of_next hread _), rfl, rfl⟩

/-- Settles O37: a free sequencer sees nothing of a frame, and nothing of three. -/
theorem framesIgnoredWhenIdle : Obligations.FramesIgnoredWhenIdle := by
  refine fun s f g h v hm hb => ⟨congrArg _ (sendFrame_idle f hb hm), congrArg _ (sendFrame_idle _ hb hm), ?mov⟩
  case mov =>
    have hnext : ∀ f : D2hFrame, sendFrame f { s with devClock := .rel, devData := .rel } =
        { s with devClock := .rel, devData := .rel } := fun f => sendFrame_idle f hb hm
    rw [exec, execMov, sendFrame_idle f hb hm, hnext g, hnext h]

/-! ### A byte there and back -/

/-- A device that sends back the eight data cells it latched sends the byte it was sent (R153). -/
theorem byteOfBits_latchedCells (v : Byte) : byteOfBits (latchedCells v) = v := by
  revert v
  decide

/-- Settles O48: the byte is written, and its latched bits are read back. -/
theorem echoRoundTrip : Obligations.EchoRoundTrip := by
  intro s v h
  have hready : Ready (wroteByte v s) := ⟨rfl, h.alive, h.polling, rfl⟩
  have hwrite : exec (.h2d v) (callWriteByte v s) = .next (wroteByte v s) :=
    congrArg _ (transferByte_callWriteByte h v)
  have hread : exec (.d2h (conformingFrame v)) (callPlain .readByte (wroteByte v s)) =
      .next (tookByte v (wroteByte v s)) := congrArg _ (sendFrame_callReadByte hready _)
  refine ⟨wroteByte v s, tookByte v (wroteByte v s), ?_, ?_, rfl, rfl⟩
  · exact (runInstrs_cons_of_next rfl _).trans (runInstrs_cons_of_next hwrite _)
  · rw [show byteOfBits (wroteByte v s).devFrame = v from byteOfBits_latchedCells v]
    exact (runInstrs_cons_of_next rfl _).trans (runInstrs_cons_of_next hread _)

end Sys2Proof.Machine
end

section
/-! SUPPORT and CERTIFICATE for spec/42_edge_sampler.md R203 to R214 and spec/30_encoding.md R97, R98: frames in
STREAMING. -/

namespace Sys2Proof.Machine

/-- What a frame writes leaves a sampling engine sampling. -/
theorem Sampling.of {s t : State} (h : Sampling s) (h1 : t.mode = s.mode := by rfl) (h2 : t.aborted = s.aborted := by rfl)
    (h3 : t.busy = s.busy := by rfl) (h4 : t.edgePending = s.edgePending := by rfl)
    (h5 : t.dispState = s.dispState := by rfl) (h6 : t.hostClock = s.hostClock := by rfl)
    (h7 : t.hostData = s.hostData := by rfl) : Sampling t :=
  ⟨h1.trans h.streaming, h2.trans h.alive, h3.trans h.free, h4.trans h.taken, h5.trans h.dispIdle, h6.trans h.clockRel,
    h7.trans h.dataRel⟩

/-- A frame of one of the first two bytes. -/
theorem sendFrame_samplesByte (f : D2hFrame) {s : State} (h : Sampling s) (hb : s.bitIdx = 0)
    (ha : accByte s.acc s.byteIdx = 0) (hy : s.byteIdx ≠ 2) : sendFrame f s = { s with
      devClock := .rel, devData := .rel, byteIdx := s.byteIdx + 1, acc := setAccByte s.acc s.byteIdx f.byte } := by
  rw [sendFrame_streaming f h hb ha, if_pos (by omega)]

/-- A frame of the third byte. -/
theorem sendFrame_publishes (f : D2hFrame) {s : State} (h : Sampling s) (hb : s.bitIdx = 0) (hy : s.byteIdx = 2)
    (ha : s.acc.b2 = 0) : sendFrame f s = { s with
      devClock := .rel, devData := .rel, byteIdx := 0, acc := ⟨0, 0, 0⟩,
      sample := ⟨s.acc.b0, s.acc.b1, f.byte⟩, dataAvailable := true } := by
  rw [sendFrame_streaming f h hb (by rw [hy]; exact ha), if_neg (by simp [hy])]
  simp only [accSample, setAccByte, hy, hb]

/-- Settles O38: the frame by the byte it is. -/
theorem d2hSampled : Obligations.D2hSampled := by
  refine fun s f h hb ha => ⟨fun hy => congrArg _ (sendFrame_samplesByte f h hb ha hy), fun hy => ?published⟩
  case published =>
    rw [hy] at ha
    exact congrArg _ (sendFrame_publishes f h hb hy ha)

/-- What an aligned movement frame leaves: its Sample published, the device at rest. -/
def afterFrame (a b c : D2hFrame) (s : State) : State :=
  { s with devClock := .rel, devData := .rel, sample := ⟨a.byte, b.byte, c.byte⟩, dataAvailable := true }

/-- A movement frame from the initial frame state. -/
theorem execMov_aligned (a b c : D2hFrame) {s : State} (h : Sampling s) (hy : s.byteIdx = 0) (hb : s.bitIdx = 0)
    (ha : s.acc = ⟨0, 0, 0⟩) : execMov a b c s = .next (afterFrame a b c s) := by
  have e0 : sendFrame a s = { s with
      devClock := .rel, devData := .rel, byteIdx := 1, acc := ⟨a.byte, 0, 0⟩ } := by
    rw [sendFrame_samplesByte a h hb (by rw [ha, hy]; rfl) (by rw [hy]; decide), hy, ha]
    rfl
  have e1 : sendFrame b { s with devClock := .rel, devData := .rel, byteIdx := 1, acc := ⟨a.byte, 0, 0⟩ } = { s with
      devClock := .rel, devData := .rel, byteIdx := 2, acc := ⟨a.byte, b.byte, 0⟩ } :=
    sendFrame_samplesByte b h.of hb rfl (by simp)
  have e2 : sendFrame c { s with devClock := .rel, devData := .rel, byteIdx := 2, acc := ⟨a.byte, b.byte, 0⟩ } = { s with
      devClock := .rel, devData := .rel, byteIdx := 0, acc := ⟨0, 0, 0⟩,
      sample := ⟨a.byte, b.byte, c.byte⟩, dataAvailable := true } :=
    sendFrame_publishes c h.of hb rfl rfl
  rw [execMov, e0, e1, e2, ← ha, ← hy, afterFrame]

/-- Settles O39: a movement frame is its three byte frames. -/
theorem movPublishes : Obligations.MovPublishes :=
  fun _ a b c h hy hb ha => execMov_aligned a b c h hy hb ha

/-- Settles O40: `FRAME_START` aligns the sampler, and the frame after it is aligned. -/
theorem resynchronisedFrame : Obligations.ResynchronisedFrame := by
  intro s a b c h
  have hstart : exec .frameStart s = .next (clearFrame s) := congrArg _ (frameStartStep_of_active h.streaming h.alive)
  exact ⟨clearFrame s, _, hstart, rfl, rfl, execMov_aligned a b c (s := clearFrame s) h.of rfl rfl rfl, rfl, rfl, rfl,
    rfl, rfl⟩

/-- Settles O49: the frame's Sample, the tick that finds it, and the scenario's own three bytes. -/
theorem endToEndStreaming : Obligations.EndToEndStreaming := by
  intro s a b c h hy hb ha hv hr
  have hmov := execMov_aligned a b c h hy hb ha
  have hsample : (afterFrame a b c s).sample = ⟨a.byte, b.byte, c.byte⟩ := rfl
  obtain ⟨htick, -⟩ := tickAcceptance (afterFrame a b c s)
  obtain ⟨-, hdelivered, -⟩ := tickStreamDispatches (afterFrame a b c s) hv h.alive h.dispIdle
  refine ⟨afterFrame a b c s, _, hmov, hsample, rfl, (htick hv).trans (hdelivered rfl hr), rfl, rfl, rfl, ?scenario⟩
  case scenario =>
    intro h1 h5 hfb
    simp only [hsample, h1, h5, hfb]
    rfl

end Sys2Proof.Machine
end

section
/-! CERTIFICATE for spec/30_encoding.md R101 to R104, spec/41_device_controller.md R174 to R186 and
spec/43_report_dispatch.md R240: sequences on the wire. -/

namespace Sys2Proof.Machine

/-! ### An acknowledgment (R101) -/

theorem WaitsForByte.running {s : State} (h : WaitsForByte s) : Running s :=
  ⟨h.busy, h.alive, h.polling, h.noDelay⟩

/-- Settles O41: the three acknowledgments before the last, each with the byte the sequence sends next. -/
theorem ackDiscarded : Obligations.AckDiscarded := by
  intro s v h ho hi
  have hnext : s.cmdIdx ≠ lastIdx s.seqOp ∧ entryLabel s.seqOp (s.cmdIdx + 1) = .wr0 := by
    rw [ho]
    rcases hi with e | e | e <;> rw [e] <;> decide
  refine congrArg _ ((sendFrame_then_write (conformingFrame v) h.running h.atRd3 h.clockRel h.dataRel h.bit0 h.cleared
    (by simp [ho]) hnext.1 hnext.2).trans ?_)
  rcases hi with e | e | e <;> simp [callByte, ho, e, conformingFrame]

/-- What `query_sample` does not keep, and every other operation, is discarded (R170). -/
theorem keepReadByte_discards {s : State}
    (h : s.seqOp ≠ .querySample ∧ s.seqOp ≠ .tickPoll ∨ s.cmdIdx = 1) : keepReadByte s = s := by
  unfold keepReadByte
  split
  case h_1 | h_2 => simp_all
  all_goals rfl

/-- An operation that waits for a byte which it discards. -/
def DiscardsByte (s : State) : Prop :=
  (s.seqOp = .writeRam ∨ s.seqOp = .setSensitivityFactor) ∧ s.cmdIdx.val % 2 = 1 ∨
    s.seqOp = .enableStreaming ∧ (s.cmdIdx = 1 ∨ s.cmdIdx = 3) ∨
    (s.seqOp = .querySample ∨ s.seqOp = .tickPoll) ∧ s.cmdIdx = 1

/-- How a discarded byte is followed up: by a request to send, by another read, by the end of the operation, or by
ES_FINAL (R174, R178, R180, R183). -/
theorem DiscardsByte.follow_up {s : State} (h : DiscardsByte s) :
    ((s.seqOp ≠ .querySample ∧ s.seqOp ≠ .tickPoll) ∧ s.cmdIdx ≠ lastIdx s.seqOp ∧
      entryLabel s.seqOp (s.cmdIdx + 1) = .wr0) ∨
    (s.cmdIdx = 1 ∧ s.cmdIdx ≠ lastIdx s.seqOp ∧ entryLabel s.seqOp (s.cmdIdx + 1) = .rd0) ∨
    ((s.seqOp ≠ .querySample ∧ s.seqOp ≠ .tickPoll) ∧ s.cmdIdx = lastIdx s.seqOp) ∨
    (s.seqOp = .enableStreaming ∧ s.cmdIdx = 3) := by
  unfold DiscardsByte at h
  generalize s.seqOp = op, s.cmdIdx = idx at h ⊢
  revert h
  cases op <;> revert idx <;> decide

/-- No acknowledgment value is seen but in `rx`. -/
theorem sendFrame_discarded {s : State} (h : WaitsForByte s) (hd : DiscardsByte s) (f g : D2hFrame) :
    { sendFrame f s with rx := 0 } = { sendFrame g s with rx := 0 } := by
  have hkeep : ∀ x : D2hFrame, s.seqOp ≠ .querySample ∧ s.seqOp ≠ .tickPoll ∨ s.cmdIdx = 1 →
      keepReadByte { s with rx := x.byte } = { s with rx := x.byte } := fun x hx => keepReadByte_discards hx
  rcases hd.follow_up with ⟨ho, hi, he⟩ | ⟨h1, hi, he⟩ | ⟨ho, hi⟩ | ⟨ho, hi⟩
  · have hnext := fun x => sendFrame_then_write x h.running h.atRd3 h.clockRel h.dataRel h.bit0 h.cleared ho hi he
    rw [hnext f, hnext g]
  · have hnext := fun x => sendFrame_then_read x h.running h.atRd3 h.clockRel h.dataRel h.bit0 h.cleared hi he
    rw [hnext f, hnext g, hkeep f (.inr h1), hkeep g (.inr h1)]
  · have hnext := fun x => sendFrame_then_complete x h.running h.atRd3 h.clockRel h.dataRel h.bit0 h.cleared hi ho.2
    rw [hnext f, hnext g, hkeep f (.inl ho), hkeep g (.inl ho)]
  · have hnext := fun x => sendFrame_then_final x h.running h.atRd3 h.clockRel h.dataRel h.bit0 h.cleared ho hi
    rw [hnext f, hnext g]

/-- Settles O42: two acknowledgments of an operation that discards them. -/
theorem ackValueUnseen : Obligations.AckValueUnseen := by
  intro s t u v w h hd ht hu
  cases ht
  cases hu
  exact sendFrame_discarded h hd (conformingFrame v) (conformingFrame w)

end Sys2Proof.Machine
end

section
/-! CERTIFICATE for spec/30_encoding.md R102 to R104, spec/41_device_controller.md R174 to R186 and
spec/43_report_dispatch.md R240: sequences on the wire. -/

namespace Sys2Proof.Machine

/-! ### The sequence rows -/

theorem callWriteRam_of_ready {s : State} (h : Ready s) (l v : Byte) :
    callWriteRam l v s = beginSequence .writeRam { s with argLoc := l, argVal := v } :=
  requestCall_of_legal (callLegal_of_free h.free h.alive h.polling (by decide)) _

theorem callSetSensitivity_of_ready {s : State} (h : Ready s) (v : Byte) : callSetSensitivity v s =
    beginSequence .setSensitivityFactor { s with argLoc := s.cfg.sensAddr, argVal := v } :=
  requestCall_of_legal (callLegal_of_free h.free h.alive h.polling (by decide)) _

theorem callEnableStreaming_of_ready {s : State} (h : Ready s) (hv : s.cfg.variant = .streaming) :
    callPlain .enableStreaming s = beginSequence .enableStreaming s :=
  requestCall_of_legal (callLegal_enableStreaming h.free h.alive h.polling hv) s

theorem callQuerySample_of_ready {s : State} (h : Ready s) (hv : s.cfg.variant = .polling) :
    callPlain .querySample s = beginSequence .querySample s :=
  requestCall_of_legal (callLegal_querySample h.free h.alive h.polling hv) s

theorem execSeqWriteRam_of_ready {s : State} (h : Ready s) (l v a0 a1 a2 a3 : Byte) :
    execSeqWriteRam l v a0 a1 a2 a3 s = .next (wroteRam a3 { s with argLoc := l, argVal := v }) := by
  rw [execSeqWriteRam, if_pos (callLegal_of_free h.free h.alive h.polling (by decide)), callWriteRam_of_ready h,
    exchange_ram (s := { s with argLoc := l, argVal := v }) h.of (.inl rfl)]

theorem execSeqEnableStreaming_of_ready {s : State} (h : Ready s) (hv : s.cfg.variant = .streaming) (a0 a1 : Byte) :
    execSeqEnableStreaming a0 a1 s = .next (enabledStreaming a1 s) := by
  rw [execSeqEnableStreaming, if_pos (callLegal_enableStreaming h.free h.alive h.polling hv),
    callEnableStreaming_of_ready h hv, exchange_enable h]

theorem execSeqQuery_of_ready {s : State} (h : Ready s) (hv : s.cfg.variant = .polling) (a0 st x y : Byte) :
    execSeqQuery a0 st x y s = .next { queried y ⟨st, x, y⟩ s with rspValid := true } := by
  rw [execSeqQuery, if_pos (callLegal_querySample h.free h.alive h.polling hv), callQuerySample_of_ready h hv,
    frames_querySample h]
  rfl

/-- Settles O43: the four bytes of `exchange_ram` with the row's operands. -/
theorem writeRamSequence : Obligations.WriteRamSequence :=
  fun _ l v a0 a1 a2 a3 h => execSeqWriteRam_of_ready h l v a0 a1 a2 a3

/-- Settles O44: the two bytes of `exchange_enable`. -/
theorem enableStreamingSequence : Obligations.EnableStreamingSequence :=
  fun _ a0 a1 h hv => execSeqEnableStreaming_of_ready h hv a0 a1

/-- Settles O45: the five frames of `frames_querySample`. -/
theorem querySequence : Obligations.QuerySequence :=
  fun _ a0 st x y h hv => execSeqQuery_of_ready h hv a0 st x y

/-! ### Start-up (R186) -/

/-- Settles O47: the pulse and WRITE_RAM leave the sequencer ready, and ENABLE_STREAMING an empty sampler. -/
theorem startUpReachesStreaming : Obligations.StartUpReachesStreaming := by
  intro c a0 a1 a2 a3 b0 b1 hv
  refine ⟨by simp [startupCalls, hv], by simp [startupCalls, hv], ?_⟩
  obtain ⟨-, hpulse⟩ := resetPulse
  have h1 : exec .resetPulse (State.resetOf c) = .next (pulsed (State.resetOf c)) := hpulse _ ⟨rfl, rfl, rfl, rfl⟩
  have h2 : exec (.seqWriteRam c.sensAddr c.sensValue a0 a1 a2 a3) (pulsed (State.resetOf c)) = .next _ :=
    execSeqWriteRam_of_ready ⟨rfl, rfl, rfl, rfl⟩ c.sensAddr c.sensValue a0 a1 a2 a3
  have h3 : exec (.seqEnableStreaming b0 b1) (wroteRam a3 { pulsed (State.resetOf c) with
      argLoc := c.sensAddr, argVal := c.sensValue }) = .next _ :=
    execSeqEnableStreaming_of_ready ⟨rfl, rfl, rfl, rfl⟩ hv b0 b1
  exact ⟨_, (runInstrs_cons_of_next h1 _).trans ((runInstrs_cons_of_next h2 _).trans (runInstrs_cons_of_next h3 _)),
    ⟨rfl, rfl, rfl, rfl, rfl, rfl, rfl⟩, rfl, rfl, rfl, rfl, rfl, rfl⟩

/-! ### A sequence, frame by frame -/

/-- An H2D or CMD_* row of the byte in request, and the ACK row, are one exchange. -/
theorem runInstrs_exchange {i : Instr} {v a : Byte} {s : State} (hi : exec i s = .next (transferByte v s))
    (hb : s.busy = true) (hr : requestsByte v s = true) (l : List Instr) :
    runInstrs (i :: .ack a :: l) s = runInstrs l (exchange a s) := by
  rw [transferByte_of_requested hb hr] at hi
  exact (runInstrs_cons_of_next hi _).trans (runInstrs_cons_of_next rfl _)

/-- The frames of a `write_ram` or a `set_sensitivity_factor` that was just accepted. -/
theorem runInstrs_ram {op : SeqOp} (ho : op = .writeRam ∨ op = .setSensitivityFactor) {s : State} (h : Ready s)
    (a0 a1 a2 a3 : Byte) :
    runInstrs [.cmdRamSelect, .ack a0, .cmdRamSet, .ack a1, .h2d s.argLoc, .ack a2, .h2d s.argVal, .ack a3]
      (beginSequence op s) = some (wroteRam a3 s) := by
  have hr0 : requestsByte s.cfg.cmdRamSelect (beginSequence op s) = true := by
    rw [← opByte_ram0 ho]
    exact requestsByte_beginSequence h (entryLabel_ram ho)
  have hr2 : ∀ t, Ready t → requestsByte t.cfg.cmdRamSet (awaitingClock op 2 t) = true := fun t ht => by
    rw [← opByte_ram2 ho]
    exact requestsByte_awaitingClock ht op 2
  have hr4 : ∀ t, Ready t → requestsByte t.argLoc (awaitingClock op 4 t) = true := fun t ht => by
    rw [← opByte_ram4 ho]
    exact requestsByte_awaitingClock ht op 4
  have hr6 : ∀ t, Ready t → requestsByte t.argVal (awaitingClock op 6 t) = true := fun t ht => by
    rw [← opByte_ram6 ho]
    exact requestsByte_awaitingClock ht op 6
  rw [runInstrs_exchange rfl rfl hr0, exchange_ram0 h ho,
    runInstrs_exchange rfl rfl (hr2 (afterAck a0 _ s) h.of), exchange_ram2 (s := afterAck a0 _ s) h.of ho,
    runInstrs_exchange rfl rfl (hr4 (afterAck a1 _ (afterAck a0 _ s)) h.of),
    exchange_ram4 (s := afterAck a1 _ (afterAck a0 _ s)) h.of ho,
    runInstrs_exchange rfl rfl (hr6 (afterAck a2 _ (afterAck a1 _ (afterAck a0 _ s))) h.of),
    exchange_ram6 (s := afterAck a2 _ (afterAck a1 _ (afterAck a0 _ s))) h.of ho]
  rfl

/-- The frames of an `enable_streaming` that was just accepted. -/
theorem runInstrs_enable {s : State} (h : Ready s) (a0 a1 : Byte) :
    runInstrs [.cmdSetStreamMode, .ack a0, .cmdEnableReporting, .ack a1] (beginSequence .enableStreaming s) =
      some (enabledStreaming a1 s) := by
  rw [runInstrs_exchange rfl rfl (requestsByte_beginSequence h rfl), exchange_enable0 h,
    runInstrs_exchange rfl rfl (requestsByte_awaitingClock (s := afterAck a0 _ s) h.of _ 2),
    exchange_enable2 (s := afterAck a0 _ s) h.of]
  rfl

/-- The frames of a query that was just accepted. -/
theorem runInstrs_query {op : SeqOp} (ho : op = .querySample ∨ op = .tickPoll) {s : State} (h : Ready s)
    (a : Byte) (f g k : D2hFrame) :
    runInstrs [.cmdReadData, .ack a, .d2h f, .d2h g, .d2h k] (beginSequence op s) =
      some (sendFrame k (sendFrame g (sendFrame f (exchange a (beginSequence op s))))) := by
  have hr : requestsByte s.cfg.cmdReadData (beginSequence op s) = true := by
    rw [← opByte_query ho]
    exact requestsByte_beginSequence h (by rcases ho with rfl | rfl <;> rfl)
  rw [runInstrs_exchange rfl rfl hr]
  rfl

/-- Settles O46: each row and its frames end in the state that the operation leaves. -/
theorem sequencesAreTheirFrames : Obligations.SequencesAreTheirFrames := by
  intro s l v a0 a1 a2 a3 x y z h
  refine ⟨?writeRam, ?sensitivity, fun hv => ?enableStreaming, fun hv => ?query⟩
  case writeRam =>
    have hcall : exec (.writeRam l v) s = .next (beginSequence .writeRam { s with argLoc := l, argVal := v }) :=
      congrArg _ (callWriteRam_of_ready h l v)
    exact ⟨_, execSeqWriteRam_of_ready h l v a0 a1 a2 a3, (runInstrs_cons_of_next hcall _).trans
      (runInstrs_ram (.inl rfl) (s := { s with argLoc := l, argVal := v }) h.of a0 a1 a2 a3)⟩
  case sensitivity =>
    have hcall : exec (.setSensitivityFactor v) s =
        .next (beginSequence .setSensitivityFactor { s with argLoc := s.cfg.sensAddr, argVal := v }) :=
      congrArg _ (callSetSensitivity_of_ready h v)
    exact ⟨_, execSeqWriteRam_of_ready h s.cfg.sensAddr v a0 a1 a2 a3, (runInstrs_cons_of_next hcall _).trans
      (runInstrs_ram (.inr rfl) (s := { s with argLoc := s.cfg.sensAddr, argVal := v }) h.of a0 a1 a2 a3)⟩
  case enableStreaming =>
    have hcall : exec .enableStreaming s = .next (beginSequence .enableStreaming s) :=
      congrArg _ (callEnableStreaming_of_ready h hv)
    exact ⟨_, execSeqEnableStreaming_of_ready h hv a0 a1,
      (runInstrs_cons_of_next hcall _).trans (runInstrs_enable h a0 a1)⟩
  case query =>
    have hcall : exec .querySample s = .next (beginSequence .querySample s) :=
      congrArg _ (callQuerySample_of_ready h hv)
    refine ⟨_, execSeqQuery_of_ready h hv a0 x y z, (runInstrs_cons_of_next hcall _).trans ?_⟩
    rw [runInstrs_query (.inl rfl) h, frames_querySample h]
    rfl

/-- Settles O50: the tick begins the query, and `frames_tickPoll` ends it with its report. -/
theorem tickPollPeriod : Obligations.TickPollPeriod := by
  intro s a0 st x y h hv hd hr
  have htick : exec .tickPoll s = .next (beginSequence .tickPoll { s with dispState := .dispatching }) := by
    rw [exec, execTickPoll, tickPollStep, if_pos (by simp [tickPollLegal, hv, hd, h.alive, h.free])]
  rw [runInstrs_cons_of_next htick, runInstrs_query (.inr rfl) (s := { s with dispState := .dispatching }) h.of,
    frames_tickPoll (s := { s with dispState := .dispatching }) h.of _ _ _ _ hr]
  rfl

end Sys2Proof.Machine
end

section
/-! SUPPORT and CERTIFICATE for spec/70_reset_and_hazards.md R330 to R335: a wire transaction is a run of single
entries. -/

namespace Sys2Proof.Machine

/-! ### The record of latched cells, which no move reads -/

/-- The state with another record of what the device latched (log 18). -/
def withRecord (l : List Bool) (s : State) : State := { s with devFrame := l }

/-- A move that neither reads nor writes the record of what the device latched (log 18). -/
def IgnoresRecord (f : State → State) : Prop :=
  ∀ (l : List Bool) (s : State), f (withRecord l s) = withRecord l (f s)

theorem IgnoresRecord.comp {f g : State → State} (hf : IgnoresRecord f) (hg : IgnoresRecord g) :
    IgnoresRecord (fun s => f (g s)) := fun l s => by
  simp only [hg l s, hf l (g s)]

/-- A test that does not read the record chooses between moves that ignore it. -/
theorem IgnoresRecord.ite {f g : State → State} {c : State → Prop} [∀ s, Decidable (c s)]
    (hc : ∀ (l : List Bool) (s : State), c (withRecord l s) ↔ c s) (hf : IgnoresRecord f)
    (hg : IgnoresRecord g) : IgnoresRecord (fun s => if c s then f s else g s) := fun l s => by
  by_cases h : c s
  · simp only [if_pos h, if_pos ((hc l s).2 h), hf l s]
  · simp only [if_neg h, if_neg (fun h' => h ((hc l s).1 h')), hg l s]

theorem ignoresRecord_id : IgnoresRecord (fun s => s) := fun _ _ => rfl

theorem goto_ignoresRecord (pc : Label) : IgnoresRecord (goto pc) := fun _ _ => rfl

theorem setHost_ignoresRecord (k : Line) (d : Drive) : IgnoresRecord (setHost k d) := fun l s => by
  cases k <;> simp only [setHost, detectEdge_eq] <;> rfl

theorem setDevice_ignoresRecord (c d : Drive) : IgnoresRecord (setDevice c d) := fun l s => by
  simp only [setDevice, detectEdge_eq]
  rfl

theorem delayDone_ignoresRecord : IgnoresRecord delayDone := fun l s => by
  rw [delayDone_eq, delayDone_eq]
  rfl

theorem delayStep_ignoresRecord (next : Label) : IgnoresRecord (delayStep next) :=
  .ite (fun _ _ => Iff.rfl) (fun _ _ => rfl) (fun _ _ => rfl)

theorem nextBit_ignoresRecord (again done : Label) : IgnoresRecord (nextBit again done) :=
  .ite (fun _ _ => Iff.rfl) (fun _ _ => rfl) (fun _ _ => rfl)

theorem returnToCaller_ignoresRecord : IgnoresRecord returnToCaller := fun l s => by
  by_cases hi : s.cmdIdx = lastIdx s.seqOp
  · by_cases ho : s.seqOp = .tickPoll
    · rw [returnToCaller_tickPoll hi ho, returnToCaller_tickPoll (s := withRecord l s) hi ho]
      rfl
    · rw [returnToCaller_last hi ho, returnToCaller_last (s := withRecord l s) hi ho]
      rfl
  · rw [returnToCaller_more hi, returnToCaller_more (s := withRecord l s) hi]
    rfl

theorem keepReadByte_ignoresRecord : IgnoresRecord keepReadByte := fun l s => by
  have ho' : (withRecord l s).seqOp = s.seqOp := rfl
  have hi' : (withRecord l s).cmdIdx = s.cmdIdx := rfl
  cases ho : s.seqOp <;> simp only [keepReadByte, ho', ho, hi']
  case querySample | tickPoll =>
    repeat' split
    all_goals rfl

/-- P3 to P5: the query's triple is formatted and offered. -/
theorem offerReport_q_ignoresRecord : IgnoresRecord (fun s => offerReport (setReport s.q s)) := fun l s => by
  simp only [offerReport_setReport]
  rfl

/-- Every micro-step. -/
theorem microStep_ignoresRecord : IgnoresRecord microStep := by
  intro l s
  have hpc' : (withRecord l s).seqPc = s.seqPc := rfl
  have release_both : IgnoresRecord (fun s => release .data (release .clock s)) :=
    (setHost_ignoresRecord .data .rel).comp (setHost_ignoresRecord .clock .rel)
  cases hpc : s.seqPc <;> simp only [microStep, hpc', hpc]
  case wr1 | rd1 => exact (goto_ignoresRecord _).comp release_both l s
  case wr3 | wr5 | wr7 | wr11 | rd9 => exact (goto_ignoresRecord _).comp (setHost_ignoresRecord _ _) l s
  case wr9a | wr10a => exact (goto_ignoresRecord _).comp (setHost_ignoresRecord _ _) l s
  case wr2 | wr4 | wr6 | wr12 | rd2 | rd4 | rs1 => exact delayStep_ignoresRecord _ l s
  case wr9d => exact nextBit_ignoresRecord _ _ l { s with par := parityStep s.par (s.tx.getLsbD s.bitCnt.val) }
  case rd6c => exact nextBit_ignoresRecord _ _ l s
  case wr15 => exact returnToCaller_ignoresRecord.comp (setHost_ignoresRecord _ _) l s
  case rd10 => exact returnToCaller_ignoresRecord.comp keepReadByte_ignoresRecord l s
  case esFinal => simp only [Machine.esFinalStep, release_both l s]; rfl
  case p3 =>
    exact IgnoresRecord.ite (c := fun s => (offerReport (setReport s.q s)).aborted = true)
      (fun _ _ => by simp only [offerReport_setReport]; rfl) offerReport_q_ignoresRecord
      ((goto_ignoresRecord .p6).comp offerReport_q_ignoresRecord) l s
  all_goals rfl

theorem seqStep_ignoresRecord : IgnoresRecord seqStep :=
  .ite (fun _ _ => Iff.rfl) microStep_ignoresRecord ignoresRecord_id

theorem insertCell_ignoresRecord (d : Bool) : IgnoresRecord (insertCell d) :=
  .ite (fun _ _ => Iff.rfl) (fun _ _ => rfl) ignoresRecord_id

theorem advanceCell_ignoresRecord : IgnoresRecord advanceCell :=
  .ite (fun _ _ => Iff.rfl) (fun _ _ => rfl) (.ite (fun _ _ => Iff.rfl) (fun _ _ => rfl) (fun _ _ => rfl))

theorem edgeStep_ignoresRecord : IgnoresRecord edgeStep :=
  .ite (fun _ _ => Iff.rfl)
    (fun l s => advanceCell_ignoresRecord.comp (insertCell_ignoresRecord (level .data s)) l
      { s with edgePending := false })
    ignoresRecord_id

theorem tickStreamStep_ignoresRecord : IgnoresRecord tickStreamStep := fun l s => by
  rw [tickStreamStep_eq, tickStreamStep_eq]
  exact IgnoresRecord.ite (c := fun s => (tickStreamLegal s && s.dataAvailable) = true)
    (f := fun s => { s with
      dataAvailable := false, report := formatReport s.cfg s.sample, rptValid := true,
      dispState := if s.rptResult = .invalid then .dispatching else .idle, aborted := s.rptResult == .invalid })
    (fun _ _ => Iff.rfl) (fun _ _ => rfl) ignoresRecord_id l s

theorem tickPollStep_ignoresRecord : IgnoresRecord tickPollStep :=
  .ite (fun _ _ => Iff.rfl) (fun _ _ => rfl) ignoresRecord_id

theorem frameStartStep_ignoresRecord : IgnoresRecord frameStartStep :=
  .ite (fun _ _ => Iff.rfl) (fun _ _ => rfl) ignoresRecord_id

/-- A call whose operands are latched alike. -/
theorem requestCall_ignoresRecord (op : SeqOp) {latch : State → State} (h : IgnoresRecord latch) :
    IgnoresRecord (fun s => requestCall op (latch s) s) :=
  .ite (fun _ _ => Iff.rfl) (fun l s => by rw [h l s]; rfl) ignoresRecord_id

/-- Every request and every event but `hw_reset`. -/
theorem portRow_ignoresRecord {i : Instr} {s t : State} (hp : isPortRow i = true) (hi : i ≠ .hwReset)
    (he : exec i s = .next t) (l : List Bool) : exec i (withRecord l s) = .next (withRecord l t) := by
  cases i <;> cases hp <;> cases he <;> apply congrArg Host.Outcome.next
  case writeByte v =>
    exact requestCall_ignoresRecord .writeByte (latch := fun s => { s with tx := v }) (fun _ _ => rfl) l s
  case readByte => exact requestCall_ignoresRecord .readByte ignoresRecord_id l s
  case reset => exact requestCall_ignoresRecord .reset ignoresRecord_id l s
  case writeRam a v =>
    exact requestCall_ignoresRecord .writeRam
      (latch := fun s => { s with argLoc := a, argVal := v }) (fun _ _ => rfl) l s
  case setSensitivityFactor v =>
    exact requestCall_ignoresRecord .setSensitivityFactor
      (latch := fun s => { s with argLoc := s.cfg.sensAddr, argVal := v }) (fun _ _ => rfl) l s
  case enableStreaming => exact requestCall_ignoresRecord .enableStreaming ignoresRecord_id l s
  case querySample => exact requestCall_ignoresRecord .querySample ignoresRecord_id l s
  case nop => rfl
  case reservedCmd code => rfl
  case edge => exact edgeStep_ignoresRecord l s
  case frameStart => exact frameStartStep_ignoresRecord l s
  case tickStream => exact tickStreamStep_ignoresRecord l s
  case tickPoll => exact tickPollStep_ignoresRecord l s
  case hwReset => exact absurd rfl hi

/-! ### Runs of single entries -/

/-- `t` is reached from `s` by single entries of build `c`, up to the record of latched cells. -/
def ReachedBySingles (c : Config) (s t : State) : Prop :=
  ∃ (l : List Input) (u : State), (∀ e ∈ l, isPrimitive c e = true) ∧ runInputs l s = some u ∧
    t = { u with devFrame := t.devFrame }

theorem ReachedBySingles.refl (c : Config) (s : State) : ReachedBySingles c s s :=
  ⟨[], s, nofun, rfl, rfl⟩

theorem runInputs_append {l m : List Input} {s u : State} (h : runInputs l s = some u) :
    runInputs (l ++ m) s = runInputs m u := by
  induction l generalizing s with
  | nil => cases h; rfl
  | cons e l ih =>
    obtain ⟨t, ht, hrest⟩ := runInputs_cons_cases h
    rw [List.cons_append, runInputs_cons_of_next ht, ih hrest]

/-- One more entry, whatever record the run has kept. -/
theorem ReachedBySingles.more {c : Config} {s t t' : State} (h : ReachedBySingles c s t) {e : Input}
    (hp : isPrimitive c e = true)
    (he : ∀ l, takeInput e (withRecord l t) = .next (withRecord l t')) : ReachedBySingles c s t' := by
  obtain ⟨l, u, hl, hr, ht⟩ := h
  have hu : takeInput e u = .next (withRecord u.devFrame t') := by
    have hback : withRecord u.devFrame t = u := by rw [ht]; rfl
    rw [← he, hback]
  refine ⟨l ++ [e], withRecord u.devFrame t', ?_, ?_, rfl⟩
  · intro x hx
    rcases List.mem_append.1 hx with hx | hx
    · exact hl x hx
    · rwa [List.mem_singleton.1 hx]
  · rw [runInputs_append hr, runInputs_cons_of_next hu]
    rfl

/-- The word of a row presents it, in every build. -/
theorem rowOf_encode {i : Instr} (hi : i.wf = true) (c : Config) : rowOf c (.word (encode i)) = some i := by
  have hdec := decode_encode hi []
  rw [List.append_nil] at hdec
  simp only [rowOf, hdec]

theorem takeInput_encode {i : Instr} (hi : i.wf = true) (s : State) : takeInput (.word (encode i)) s = exec i s := by
  have hdec := decode_encode hi []
  rw [List.append_nil] at hdec
  exact runWord_of_decode hdec s

/-- A code below `0x8` is reserved in no row, and its term changes nothing. -/
theorem exec_of_not_wf {i : Instr} {s t : State} (hi : i.wf = false) (he : exec i s = .next t) : t = s := by
  cases i
  case reservedCmd code => cases he; rfl
  all_goals cases hi

theorem reachedBySingles_keptByMoves (c : Config) (s : State) : KeptByMoves (ReachedBySingles c s) where
  port {i t t'} hp hi h he := by
    cases hw : i.wf
    case false => rwa [exec_of_not_wf hw he]
    case true =>
      refine h.more (e := .word (encode i)) ?_ (fun l => ?_)
      · simp [isPrimitive, rowOf_encode hw, hp]
      · rw [takeInput_encode hw, portRow_ignoresRecord hp hi he]
  turn {t} h := h.more (e := .seqTurn) rfl (fun l => congrArg _ (seqStep_ignoresRecord l t))
  device {t} a b h := h.more (e := .device a b) rfl (fun l => congrArg _ (setDevice_ignoresRecord a b l t))
  delay {t} h := h.more (e := .delayDone) rfl (fun l => congrArg _ (delayDone_ignoresRecord l t))
  record {t} l h := by
    obtain ⟨m, u, hm, hr, ht⟩ := h
    exact ⟨m, u, hm, hr, by rw [ht]⟩

/-- Settles O51: a row is made of moves, and each move is an entry. -/
theorem wireRowsAreRuns : Obligations.WireRowsAreRuns := by
  intro i s t hp hrpt he
  have hi : i ≠ .hwReset := by
    rintro rfl
    cases hp
  exact (reachedBySingles_keptByMoves s.cfg s).wire_kept hi hrpt (.refl s.cfg s) he

end Sys2Proof.Machine
end
